-- ==== Sys2Proof/Word.lean ====
section
/-! DEFINITION. The widths of 00_scope.md rule R16: bytes, u16 and u32, all unsigned. -/

namespace Sys2Proof

/-- A byte, 0..255 (R16). -/
abbrev Byte := BitVec 8

/-- An unsigned 16-bit value, `u16` (R16). -/
abbrev Word16 := BitVec 16

/-- An unsigned 32-bit value, `u32` (R16). -/
abbrev Word32 := BitVec 32

end Sys2Proof
end

