-- ==== Sys2Proof/Config.lean ====
section
/-! DEFINITION. The parameters of 00_scope.md rules R7 to R14: what is fixed for one model (10_state.md R30). -/

namespace Sys2Proof

/-- The OPEN parameters of R11 and R12: values no source gives (92 D14, D15). Log 4. -/
structure Params where
  /-- `BOOT_MAGIC`, sent in the BOOT_ENTER request (R11). -/
  bootMagic : Word32
  /-- `WRITE_OK_A`, a WRITE_CHUNK status that means success (R12). -/
  writeOkA : Word32
  /-- `WRITE_OK_B`, the other one; nothing says that the two differ (R12, 93 U2). -/
  writeOkB : Word32
  deriving DecidableEq, Repr, Inhabited

/-- The parameters of the hardware. No body: nothing can evaluate them, so a statement holds whatever they are. Log 4. -/
opaque Config.hardware : Params

/-- `CRC_INIT_VALUE` (R7). -/
def Config.crcInit : Word16 := 0xFFFF#16

/-- `CRC_POLY_REFLECTED` (R7). -/
def Config.crcPoly : Word16 := 0xA001#16

/-- `CHUNK` (R9), in bytes. -/
def Config.chunk : Nat := 128

/-- `MAX_PAYLOAD` (R13), the decided value. Log 5. -/
def Config.maxPayload : Nat := 132

/-- `MAX_FRAME = MAX_PAYLOAD + 4` (R13). -/
def Config.maxFrame : Nat := Config.maxPayload + 4

/-- `OPC_BOOT_ENTER` (R14). -/
def Config.opcBootEnter : Byte := 100#8

/-- `OPC_READ_CHUNK` (R14). -/
def Config.opcReadChunk : Byte := 101#8

/-- `OPC_BOOT_EXIT` (R14). -/
def Config.opcBootExit : Byte := 102#8

/-- `OPC_WRITE_CHUNK` (R14). -/
def Config.opcWriteChunk : Byte := 103#8

end Sys2Proof
end

