-- ==== Sys2Proof/Machine/Operands.lean ====
section
/-! DEFINITION. Byte order and operand assembly: the sequence primitives of R17, the operand forms of R73, the frame
layout of R80. -/

namespace Sys2Proof.Machine

/-- `le16(v)` (R17, R58): the low byte first. -/
def le16 (v : Word16) : List Byte :=
  [v.extractLsb' 0 8, v.extractLsb' 8 8]

/-- `le32(v)` (R17, R57): the low byte first. -/
def le32 (v : Word32) : List Byte :=
  [v.extractLsb' 0 8, v.extractLsb' 8 8, v.extractLsb' 16 8, v.extractLsb' 24 8]

/-- `b0 OR (b1 << 8)`, the 16-bit count of F5 (R73) and the two CRC bytes of a frame (R58). -/
def u16OfBytes (b0 b1 : Byte) : Word16 :=
  b0.setWidth 16 ||| (b1.setWidth 16 <<< 8)

/-- `b0 OR (b1 << 8) OR (b2 << 16) OR (b3 << 24)` (R17). -/
def u32OfBytes (b0 b1 b2 b3 : Byte) : Word32 :=
  b0.setWidth 32 ||| (b1.setWidth 32 <<< 8) ||| (b2.setWidth 32 <<< 16) ||| (b3.setWidth 32 <<< 24)

/-- `s[i]` (R17). No rule reads past the end of a sequence; there this answers 0 (log 11). -/
def byteAt (s : List Byte) (i : Nat) : Byte := s.getD i 0#8

/-- `u32le(s, i)` (R17). -/
def u32le (s : List Byte) (i : Nat) : Word32 :=
  u32OfBytes (byteAt s i) (byteAt s (i + 1)) (byteAt s (i + 2)) (byteAt s (i + 3))

/-- `s[i..j)` (R17): the bytes i to j - 1. -/
def slice (s : List Byte) (i j : Nat) : List Byte := (s.drop i).take (j - i)

/-- The layout of a frame on the wire (R80): address, command, payload, CRC low byte first. -/
def rawFrame (a c : Byte) (p : List Byte) (crc : Word16) : List Byte :=
  a :: c :: (p ++ le16 crc)

/-- The payload of a frame: `f[2..|f|-2)` (R121). -/
def payloadOf (f : List Byte) : List Byte := slice f 2 (f.length - 2)

/-- The legal device addresses, 1..127 (R8): the operand check of SET_ADDR and FRAME_ENCODE (R180, R123). -/
def addrInRange (a : Byte) : Bool := decide (1 ≤ a.toNat ∧ a.toNat ≤ 127)

end Sys2Proof.Machine
end

