-- ==== Sys2Proof/Syntax.lean ====
section
/-! DEFINITION. The instructions: the 12 operations of 30_encoding.md R72 and the 8 wire frames of R83 to R90, and the
two channels their bytes come by. -/

namespace Sys2Proof

/-- One constructor per row of spec/opcode_table.json. The operands of an operation are those of R72. The fields of a
wire frame are its address byte, its payload fields (R83 to R90) and its two CRC bytes read as one `crc` (R80);
a frame is *valid* when that CRC is right (R122), and a garbled frame is a frame too. -/
inductive Instr where
  | crcInit
  | crcByte (b : Byte)
  | crcBlock (s : List Byte)
  | setAddr (a : Byte)
  | abort
  | frameEncode (a c : Byte) (p : List Byte)
  | frameDecode (ea ec : Byte) (f : List Byte)
  | reqBootEnter
  | reqReadChunk (fa : Word32)
  | reqBootExit
  | reqWriteChunk (fa : Word32) (d : List Byte)
  | rxByte (b : Byte)
  | bootEnterRequest (a : Byte) (magic : Word32) (crc : Word16)
  | bootEnterResponse (a : Byte) (magic : Word32) (crc : Word16)
  | readChunkRequest (a : Byte) (fa : Word32) (crc : Word16)
  | readChunkResponse (a : Byte) (echo : Word32) (d : List Byte) (crc : Word16)
  | bootExitRequest (a : Byte) (crc : Word16)
  | bootExitResponse (a : Byte) (crc : Word16)
  | writeChunkRequest (a : Byte) (fa : Word32) (d : List Byte) (crc : Word16)
  | writeChunkResponse (a : Byte) (echo status : Word32) (crc : Word16)
  deriving DecidableEq, Repr

/-- The six message formats of R71. -/
inductive Format where
  | f0 | f1 | f2 | f3 | f4 | f5
  deriving DecidableEq, Repr

/-- The twelve operation codes of R72, by name. -/
inductive Opcode where
  | crcInit | crcByte | crcBlock | setAddr | abort | frameEncode | frameDecode
  | reqBootEnter | reqReadChunk | reqBootExit | reqWriteChunk | rxByte
  deriving DecidableEq, Repr

/-- Bytes and the channel they come by: a whole message at the operation port (R70), or a frame on the line, which
the host transmits (R25) or has received (R79, R150). -/
inductive Transfer where
  | message (m : List Byte)
  | lineOut (f : List Byte)
  | lineIn (f : List Byte)
  deriving DecidableEq, Repr

/-- Why bytes are no instruction: the three checks of R74 in their order, and line bytes that are no command frame of
R82. -/
inductive DecodeError where
  | emptyMessage
  | reservedCode (code : Byte)
  | badLength (code : Byte)
  | notACommandFrame
  deriving DecidableEq, Repr

end Sys2Proof
end

