-- ==== Sys2Proof/WellFormed.lean ====
section
/-! DEFINITION. Which instructions have an encoding: the counts and fixed lengths of R71 and R82. -/

namespace Sys2Proof

/-- An operand list fits its encoding: at most 65535 bytes in F5, at most 255 in F4, exactly one chunk in F3 and in
the two frames that carry one (R71, R86, R89). -/
def Instr.wellFormed : Instr → Bool
  | .crcInit => true
  | .crcByte _ => true
  | .crcBlock s => decide (s.length ≤ 65535)
  | .setAddr _ => true
  | .abort => true
  | .frameEncode _ _ p => decide (p.length ≤ 255)
  | .frameDecode _ _ f => decide (f.length ≤ 255)
  | .reqBootEnter => true
  | .reqReadChunk _ => true
  | .reqBootExit => true
  | .reqWriteChunk _ d => decide (d.length = Config.chunk)
  | .rxByte _ => true
  | .bootEnterRequest _ _ _ => true
  | .bootEnterResponse _ _ _ => true
  | .readChunkRequest _ _ _ => true
  | .readChunkResponse _ _ d _ => decide (d.length = Config.chunk)
  | .bootExitRequest _ _ => true
  | .bootExitResponse _ _ => true
  | .writeChunkRequest _ _ d _ => decide (d.length = Config.chunk)
  | .writeChunkResponse _ _ _ _ => true

end Sys2Proof
end

