-- ==== Sys2Proof/Decode.lean ====
section
/-! DEFINITION. The decoder of operation messages (R70 to R77) and of command frames on the line (R80 to R90), and
after it the encoder, both from the tables R71, R72 and R82. -/

namespace Sys2Proof

open Machine

/-- The code of an operation (R72). -/
def Opcode.code : Opcode → Byte
  | .crcInit => 0x01#8
  | .crcByte => 0x02#8
  | .crcBlock => 0x03#8
  | .setAddr => 0x10#8
  | .abort => 0x11#8
  | .frameEncode => 0x20#8
  | .frameDecode => 0x21#8
  | .reqBootEnter => 0x30#8
  | .reqReadChunk => 0x31#8
  | .reqBootExit => 0x32#8
  | .reqWriteChunk => 0x33#8
  | .rxByte => 0x40#8

/-- The format of an operation (R72). -/
def Opcode.format : Opcode → Format
  | .crcInit => .f0
  | .crcByte => .f1
  | .crcBlock => .f5
  | .setAddr => .f1
  | .abort => .f0
  | .frameEncode => .f4
  | .frameDecode => .f4
  | .reqBootEnter => .f0
  | .reqReadChunk => .f2
  | .reqBootExit => .f0
  | .reqWriteChunk => .f3
  | .rxByte => .f1

/-- The rows of R72, in its order. -/
def opcodeTable : List Opcode :=
  [.crcInit, .crcByte, .crcBlock, .setAddr, .abort, .frameEncode, .frameDecode,
   .reqBootEnter, .reqReadChunk, .reqBootExit, .reqWriteChunk, .rxByte]

/-- The operation with a code; none for a reserved one (R75). -/
def opcodeOf (b : Byte) : Option Opcode := opcodeTable.find? fun o => o.code == b

/-- The operands after the code byte, read in the code's format (R71, R73); none when the length is not the
format's. -/
def decodeOperands : Opcode → List Byte → Option Instr
  | .crcInit, m => match m with
    | [] => some .crcInit
    | _ => none
  | .crcByte, m => match m with
    | [b] => some (.crcByte b)
    | _ => none
  | .crcBlock, m => match m with
    | n0 :: n1 :: s => if s.length = (u16OfBytes n0 n1).toNat then some (.crcBlock s) else none
    | _ => none
  | .setAddr, m => match m with
    | [a] => some (.setAddr a)
    | _ => none
  | .abort, m => match m with
    | [] => some .abort
    | _ => none
  | .frameEncode, m => match m with
    | a :: c :: n :: p => if p.length = n.toNat then some (.frameEncode a c p) else none
    | _ => none
  | .frameDecode, m => match m with
    | ea :: ec :: n :: f => if f.length = n.toNat then some (.frameDecode ea ec f) else none
    | _ => none
  | .reqBootEnter, m => match m with
    | [] => some .reqBootEnter
    | _ => none
  | .reqReadChunk, m => match m with
    | [b0, b1, b2, b3] => some (.reqReadChunk (u32OfBytes b0 b1 b2 b3))
    | _ => none
  | .reqBootExit, m => match m with
    | [] => some .reqBootExit
    | _ => none
  | .reqWriteChunk, m => match m with
    | b0 :: b1 :: b2 :: b3 :: d =>
      if d.length = Config.chunk then some (.reqWriteChunk (u32OfBytes b0 b1 b2 b3) d) else none
    | _ => none
  | .rxByte, m => match m with
    | [b] => some (.rxByte b)
    | _ => none

/-- A message at the operation port, checked in the order of R74. -/
def decodeMessage : List Byte → Except DecodeError Instr
  | [] => .error .emptyMessage
  | op :: rest => match opcodeOf op with
    | none => .error (.reservedCode op)
    | some o => match decodeOperands o rest with
      | some i => .ok i
      | none => .error (.badLength op)

/-- A request frame on the line (R83, R85, R87, R89), read by its command byte. -/
def decodeRequestFrame : List Byte → Option Instr
  | a :: c :: rest =>
    if c = Config.opcBootEnter then match rest with
      | [b0, b1, b2, b3, k0, k1] => some (.bootEnterRequest a (u32OfBytes b0 b1 b2 b3) (u16OfBytes k0 k1))
      | _ => none
    else if c = Config.opcReadChunk then match rest with
      | [b0, b1, b2, b3, k0, k1] => some (.readChunkRequest a (u32OfBytes b0 b1 b2 b3) (u16OfBytes k0 k1))
      | _ => none
    else if c = Config.opcBootExit then match rest with
      | [k0, k1] => some (.bootExitRequest a (u16OfBytes k0 k1))
      | _ => none
    else if c = Config.opcWriteChunk then match rest with
      | b0 :: b1 :: b2 :: b3 :: more => match more.drop Config.chunk with
        | [k0, k1] => some (.writeChunkRequest a (u32OfBytes b0 b1 b2 b3) (more.take Config.chunk) (u16OfBytes k0 k1))
        | _ => none
      | _ => none
    else none
  | _ => none

/-- A response frame on the line (R84, R86, R88, R90), read by its command byte. -/
def decodeResponseFrame : List Byte → Option Instr
  | a :: c :: rest =>
    if c = Config.opcBootEnter then match rest with
      | [b0, b1, b2, b3, k0, k1] => some (.bootEnterResponse a (u32OfBytes b0 b1 b2 b3) (u16OfBytes k0 k1))
      | _ => none
    else if c = Config.opcReadChunk then match rest with
      | b0 :: b1 :: b2 :: b3 :: more => match more.drop Config.chunk with
        | [k0, k1] => some (.readChunkResponse a (u32OfBytes b0 b1 b2 b3) (more.take Config.chunk) (u16OfBytes k0 k1))
        | _ => none
      | _ => none
    else if c = Config.opcBootExit then match rest with
      | [k0, k1] => some (.bootExitResponse a (u16OfBytes k0 k1))
      | _ => none
    else if c = Config.opcWriteChunk then match rest with
      | [b0, b1, b2, b3, c0, c1, c2, c3, k0, k1] =>
        some (.writeChunkResponse a (u32OfBytes b0 b1 b2 b3) (u32OfBytes c0 c1 c2 c3) (u16OfBytes k0 k1))
      | _ => none
    else none
  | _ => none

/-- The decoder: total, by channel and bytes alone (R76). -/
def decode : Transfer → Except DecodeError Instr
  | .message m => decodeMessage m
  | .lineOut f => match decodeRequestFrame f with
    | some i => .ok i
    | none => .error .notACommandFrame
  | .lineIn f => match decodeResponseFrame f with
    | some i => .ok i
    | none => .error .notACommandFrame

/-- The encoder: the message of an operation (R71, R72), the frame of a wire row (R80, R83 to R90). -/
def encode : Instr → Transfer
  | .crcInit => .message [0x01#8]
  | .crcByte b => .message [0x02#8, b]
  | .crcBlock s => .message (0x03#8 :: (le16 (BitVec.ofNat 16 s.length) ++ s))
  | .setAddr a => .message [0x10#8, a]
  | .abort => .message [0x11#8]
  | .frameEncode a c p => .message (0x20#8 :: a :: c :: BitVec.ofNat 8 p.length :: p)
  | .frameDecode ea ec f => .message (0x21#8 :: ea :: ec :: BitVec.ofNat 8 f.length :: f)
  | .reqBootEnter => .message [0x30#8]
  | .reqReadChunk fa => .message (0x31#8 :: le32 fa)
  | .reqBootExit => .message [0x32#8]
  | .reqWriteChunk fa d => .message (0x33#8 :: (le32 fa ++ d))
  | .rxByte b => .message [0x40#8, b]
  | .bootEnterRequest a magic crc => .lineOut (rawFrame a 100#8 (le32 magic) crc)
  | .bootEnterResponse a magic crc => .lineIn (rawFrame a 100#8 (le32 magic) crc)
  | .readChunkRequest a fa crc => .lineOut (rawFrame a 101#8 (le32 fa) crc)
  | .readChunkResponse a echo d crc => .lineIn (rawFrame a 101#8 (le32 echo ++ d) crc)
  | .bootExitRequest a crc => .lineOut (rawFrame a 102#8 [] crc)
  | .bootExitResponse a crc => .lineIn (rawFrame a 102#8 [] crc)
  | .writeChunkRequest a fa d crc => .lineOut (rawFrame a 103#8 (le32 fa ++ d) crc)
  | .writeChunkResponse a echo status crc => .lineIn (rawFrame a 103#8 (le32 echo ++ le32 status) crc)

/-- The bytes of a transfer, whatever its channel. -/
def Transfer.bytes : Transfer → List Byte
  | .message m => m
  | .lineOut f => f
  | .lineIn f => f

/-- The `n` lowest bytes of a table word, lowest first. -/
def wordBytes (w : Nat) : Nat → List Byte
  | 0 => []
  | n + 1 => BitVec.ofNat 8 w :: wordBytes (w / 256) n

/-- The length of the message that a table word begins, by its format and count field (R71). -/
def tableLength (w : Nat) : Nat :=
  match opcodeOf (BitVec.ofNat 8 w) with
  | none => 0
  | some o => match o.format with
    | .f0 => 1
    | .f1 => 2
    | .f2 => 5
    | .f3 => 133
    | .f4 => 4 + w / 2 ^ 24 % 256
    | .f5 => 3 + w / 2 ^ 8 % 65536

/-- The frame lengths of a wire command, request and response (R82). -/
def frameLengths (c : Byte) : Option (Nat × Nat) :=
  if c = Config.opcBootEnter then some (8, 8)
  else if c = Config.opcReadChunk then some (8, 136)
  else if c = Config.opcBootExit then some (4, 4)
  else if c = Config.opcWriteChunk then some (136, 12)
  else none

/-- A word as spec/opcode_table.json numbers it, laid out. An operation's word begins at message byte 0. A wire row's
word begins at frame byte 1, the command byte (the table's `match_on`): byte 0, the address, has no bits there and is 0.
Request and response rows share their word: the width of the longer frame means that one, any other width the shorter,
and of two frames of one length the response is meant (log 8). -/
def tableTransfer (nbits w : Nat) : Transfer :=
  let v := w % 2 ^ nbits
  match frameLengths (BitVec.ofNat 8 v) with
  | some (request, response) =>
    if (request < response ∧ nbits ≠ 8 * response) ∨ (response < request ∧ nbits = 8 * request) then
      .lineOut (0#8 :: wordBytes v (request - 1))
    else .lineIn (0#8 :: wordBytes v (response - 1))
  | none => .message (wordBytes v (max (nbits / 8) (tableLength v)))

/-- What the decoder reads from a word numbered as the opcode table numbers it. -/
def decodeTableWord (nbits w : Nat) : Option Instr :=
  match decode (tableTransfer nbits w) with
  | .ok i => some i
  | .error _ => none

end Sys2Proof
end

