-- ==== Sys2Proof/Machine/State.lean ====
section
/-! DEFINITION. The state of the block (10_state.md), the host's side of the two ports, the reasons a step can stop,
and the state after reset (R34). -/

namespace Sys2Proof.Machine

/-- The result codes of R201; `number` of Flags.lean gives their values. Value 15 is reserved and never produced. -/
inductive Code where
  | ok | receiving | frameTooShort | addressMismatch | commandMismatch | checksumInvalid | magicMismatch
  | writeRejected | timeout | frameTooLong | addressOutOfRange | addressUnset | requestOutstanding
  | noRequestPending | illegalOp
  deriving DecidableEq, Repr

/-- The bytes of the three buffers, by their offset in the register space (R53): offsets strictly rising, and no cell
that holds what an unlisted offset holds (log 3). -/
abbrev Memory := List Host.Cell

/-- What a byte no operation has written holds. The spec leaves it unspecified and refuses to read it (R33). Log 3. -/
def Memory.unlisted : Byte := 0#8

/-- The canonical form of a memory. -/
def Memory.wf : Memory → Bool
  | [] => true
  | [c] => c.2 != Memory.unlisted
  | c :: d :: m => c.2 != Memory.unlisted && decide (c.1 < d.1) && Memory.wf (d :: m)

/-- What the host can do to the block (R20): transfer bytes (R70, R25, R79), read or try to write a register (R52, R54),
reset it (R240). Log 2. -/
inductive HostAction where
  | transfer (t : Transfer)
  | memRead (addr n : Nat)
  | memWrite (addr n v : Nat)
  | reset
  deriving DecidableEq, Repr

/-- What the host has seen of the block: the result code of each operation (R205), the value of each admitted read
(R52), the frames sent on the line (R25), the resets (R240). Log 1. -/
inductive Event where
  | result (c : Code)
  | readValue (addr n : Nat) (v : Word32)
  | sent (f : List Byte)
  | wasReset
  deriving DecidableEq, Repr

/-- The state. All but the last two fields are the spec's (10_state.md R21 to R29); STATUS.PEND and STATUS.ADDR_VALID
are derived copies (R32) and are computed. -/
structure State where
  /-- CRC (R21). -/
  crc : Word16
  /-- ADDR (R22); 0 means unbound. -/
  addr : Byte
  /-- STATUS.CODE (R23). -/
  code : Code
  /-- STATUS.RSP_VALID (R23). -/
  rspValid : Bool
  /-- STATUS.WRITE_OK (R23). -/
  writeOk : Bool
  /-- STATUS.ECHO_MATCH (R23). -/
  echoMatch : Bool
  /-- PEND.valid (R24). -/
  pendValid : Bool
  /-- PEND.cmd (R24). -/
  pendCmd : Byte
  /-- PEND.rsplen (R24). -/
  pendRsplen : Byte
  /-- PEND.faddr (R24). -/
  pendFaddr : Word32
  /-- TXLEN (R25). -/
  txlen : Byte
  /-- RXLEN (R26). -/
  rxlen : Byte
  /-- OUTLEN (R27). -/
  outlen : Byte
  /-- RSP_ECHO (R28). -/
  rspEcho : Word32
  /-- RSP_STATUS (R29). -/
  rspStatus : Word32
  /-- TXBUF, RXBUF and OUTBUF (R25, R26, R27). -/
  mem : Memory
  /-- The host's actions still to come, in issue order (R60). Log 2. -/
  inbox : List HostAction
  /-- The event history, newest first (R205). Log 1. -/
  events : List Event
  deriving DecidableEq, Repr

/-- Model faults (R206): the run of the model ends; nothing of the block is changed. -/
inductive Fault where
  /-- Raised by a MemRead that R55 does not admit: a reserved offset, another width, the inside of a register. Safe:
  the chip would answer something. -/
  | readRefused (addr n : Nat)
  /-- Raised by a MemRead of a buffer byte at or above the buffer's length (R33). Safe: the chip would answer some
  byte. -/
  | unspecifiedByte (addr : Nat)
  /-- Raised by every MemWrite (R54). Safe: the write changes nothing. -/
  | writeRefused (addr n : Nat)
  /-- Raised by RX_BYTE when an exchange completes whose PEND.cmd is none of 100..103, for which R151 has no decoder.
  No run reaches it (R151). Safe. Log 10. -/
  | unknownPendingCommand (cmd : Byte)
  deriving DecidableEq, Repr

/-- Refusals. -/
inductive Refusal where
  /-- Raised by `exec` for an instruction that has no meaning yet. Safe. No arm answers so now. -/
  | notModelled (mnemonic : String)
  deriving DecidableEq, Repr

/-- How an instruction ends. -/
abbrev Result := Host.Outcome State Fault Refusal

/-- The state after reset: R34, R240. The host has asked nothing yet. -/
def State.reset : State where
  crc := 0xFFFF#16
  addr := 0x00#8
  code := .ok
  rspValid := false
  writeOk := false
  echoMatch := false
  pendValid := false
  pendCmd := 0x00#8
  pendRsplen := 0x00#8
  pendFaddr := 0x00000000#32
  txlen := 0#8
  rxlen := 0#8
  outlen := 0#8
  rspEcho := 0x00000000#32
  rspStatus := 0x00000000#32
  mem := []
  inbox := []
  events := []

end Sys2Proof.Machine
end

