-- ==== Sys2Proof/Machine/Ops.lean ====
section
/-! DEFINITION. The shared operations over memory, the buffers and the result code. -/

namespace Sys2Proof.Machine

/-! ### Memory: one byte, and runs of bytes -/

/-- The byte at an offset. -/
def Memory.read (m : Memory) (a : Nat) : Byte :=
  match m with
  | [] => Memory.unlisted
  | c :: rest => if c.1 = a then c.2 else Memory.read rest a

/-- A cell put in its place by offset. -/
def Memory.place (a : Nat) (v : Byte) : Memory → Memory
  | [] => [(a, v)]
  | c :: rest => if a < c.1 then (a, v) :: c :: rest else c :: Memory.place a v rest

/-- Store one byte: the old cell goes, and a new one stands only for a byte other than `Memory.unlisted`. -/
def Memory.write (m : Memory) (a : Nat) (v : Byte) : Memory :=
  let others := m.filter fun c => c.1 != a
  if v = Memory.unlisted then others else Memory.place a v others

/-- Store a sequence from an offset on, first byte lowest. -/
def Memory.writeAll (m : Memory) (base : Nat) : List Byte → Memory
  | [] => m
  | b :: rest => Memory.writeAll (Memory.write m base b) (base + 1) rest

/-- The `n` bytes from an offset on, lowest first. -/
def Memory.readAll (m : Memory) (base : Nat) : Nat → List Byte
  | 0 => []
  | n + 1 => Memory.read m base :: Memory.readAll m (base + 1) n

/-! ### The three buffers (R25, R26, R27, R53) -/

/-- Offset of TXBUF[0] (R53). -/
def txBase : Nat := 0x100

/-- Offset of RXBUF[0] (R53). -/
def rxBase : Nat := 0x200

/-- Offset of OUTBUF[0] (R53). -/
def outBase : Nat := 0x300

/-- `TXBUF[0..TXLEN)`, the transmit stream (R25). -/
def State.txFrame (s : State) : List Byte := Memory.readAll s.mem txBase s.txlen.toNat

/-- `RXBUF[0..RXLEN)` (R26). -/
def State.rxBytes (s : State) : List Byte := Memory.readAll s.mem rxBase s.rxlen.toNat

/-- `OUTBUF[0..OUTLEN)`, the decoded payload (R27). -/
def State.outPayload (s : State) : List Byte := Memory.readAll s.mem outBase s.outlen.toNat

/-- `TXBUF[0..|f|) <- f` and `TXLEN <- |f|` (R123, R141). -/
def State.loadTx (f : List Byte) (s : State) : State :=
  { s with mem := Memory.writeAll s.mem txBase f, txlen := BitVec.ofNat 8 f.length }

/-- `RXBUF[RXLEN] <- b` and `RXLEN <- RXLEN + 1` (R150). -/
def State.appendRx (b : Byte) (s : State) : State :=
  { s with mem := Memory.write s.mem (rxBase + s.rxlen.toNat) b, rxlen := s.rxlen + 1#8 }

/-- `OUTBUF[0..|p|) <- p` and `OUTLEN <- |p|` (R124, R151). -/
def State.loadOut (p : List Byte) (s : State) : State :=
  { s with mem := Memory.writeAll s.mem outBase p, outlen := BitVec.ofNat 8 p.length }

/-! ### Ending an operation (R18, R200) -/

/-- `STATUS.CODE <- c`, the one write that ends every operation (R200), and its entry in the event history (R205). -/
def State.finish (c : Code) (s : State) : State :=
  { s with code := c, events := .result c :: s.events }

/-- `raise c` (R18, R200): the operation ends with the code; what it wrote before stands (R202). The block has no
handler to enter and no state to save (R204), and nothing returns from an error (R205). A plain end with OK is the same
write. -/
def raise (c : Code) (s : State) : Result := .next (s.finish c)

/-- `if PEND.valid == 1: raise RequestOutstanding`, and else go on (R243, R244, R245). -/
def whenIdle (s : State) (go : Result) : Result :=
  if s.pendValid then raise .requestOutstanding s else go

/-- Run the next operation on the state the first one leaves (R60). -/
def andThen (r : Result) (k : State → Result) : Result :=
  match r with
  | .next s => k s
  | .fault e => .fault e
  | .refused e => .refused e

/-- An entry in the event history alone. -/
def State.record (e : Event) (s : State) : State := { s with events := e :: s.events }

end Sys2Proof.Machine
end

