-- ==== Sys2Proof/Machine/Flags.lean ====
section
/-! DEFINITION. STATUS (R23, R32): its fields, its word, and the computation of each flag. -/

namespace Sys2Proof.Machine

/-- The value of a result code (R201). -/
def Code.number : Code → BitVec 4
  | .ok => 0#4
  | .receiving => 1#4
  | .frameTooShort => 2#4
  | .addressMismatch => 3#4
  | .commandMismatch => 4#4
  | .checksumInvalid => 5#4
  | .magicMismatch => 6#4
  | .writeRejected => 7#4
  | .timeout => 8#4
  | .frameTooLong => 9#4
  | .addressOutOfRange => 10#4
  | .addressUnset => 11#4
  | .requestOutstanding => 12#4
  | .noRequestPending => 13#4
  | .illegalOp => 14#4

/-- STATUS.PEND, a copy of PEND.valid (R32). -/
def State.statusPend (s : State) : Bool := s.pendValid

/-- STATUS.ADDR_VALID, `ADDR != 0` (R32). -/
def State.addrValid (s : State) : Bool := s.addr != 0x00#8

/-- The STATUS word (R23), bit 15 first: reserved zeros, ECHO_MATCH, WRITE_OK, RSP_VALID, ADDR_VALID, PEND, CODE. -/
def State.status (s : State) : Word16 :=
  0#7 ++ BitVec.ofBool s.echoMatch ++ BitVec.ofBool s.writeOk ++ BitVec.ofBool s.rspValid
    ++ BitVec.ofBool s.addrValid ++ BitVec.ofBool s.statusPend ++ s.code.number

/-- RSP_VALID, WRITE_OK and ECHO_MATCH cleared, and OUTLEN with them (R124, R141). -/
def State.clearOutputs (s : State) : State :=
  { s with rspValid := false, writeOk := false, echoMatch := false, outlen := 0#8 }

/-- `STATUS.ECHO_MATCH <- (RSP_ECHO == PEND.faddr) ? 1 : 0` (R153, R155). -/
def State.setEchoMatch (s : State) : State := { s with echoMatch := s.rspEcho == s.pendFaddr }

/-- `w ∈ WRITE_OK_SET` (R12, R155). -/
def writeAccepted (P : Params) (w : Word32) : Bool := w == P.writeOkA || w == P.writeOkB

/-- `STATUS.WRITE_OK <- (RSP_STATUS ∈ WRITE_OK_SET) ? 1 : 0` (R155). -/
def State.setWriteOk (P : Params) (s : State) : State := { s with writeOk := writeAccepted P s.rspStatus }

end Sys2Proof.Machine
end

