-- ==== Sys2Proof/Machine/Crc.lean ====
section
/-! DEFINITION. The checksum engine (40_crc.md): its functions and CRC_INIT, CRC_BYTE, CRC_BLOCK. -/

namespace Sys2Proof.Machine

/-- One shift of the CRC register, least significant bit first (R100). -/
def crcShift (c : Word16) : Word16 :=
  if c.getLsbD 0 then (c >>> 1) ^^^ Config.crcPoly else c >>> 1

/-- `n` shifts. -/
def crcShifts : Nat → Word16 → Word16
  | 0, c => c
  | n + 1, c => crcShifts n (crcShift c)

/-- `crc_step(c, b)`: the CRC one byte on (R100). -/
def crcStep (c : Word16) (b : Byte) : Word16 := crcShifts 8 (c ^^^ b.setWidth 16)

/-- `checksum(s)`: from 0xFFFF over the bytes in order, no final XOR (R101). -/
def checksum (s : List Byte) : Word16 := s.foldl crcStep Config.crcInit

/-- CRC_INIT (R105). -/
def execCrcInit (s : State) : Result :=
  whenIdle s (raise .ok { s with crc := Config.crcInit })

/-- CRC_BYTE b (R106). -/
def execCrcByte (b : Byte) (s : State) : Result :=
  whenIdle s (raise .ok { s with crc := crcStep s.crc b })

/-- CRC_BLOCK s (R107). -/
def execCrcBlock (bs : List Byte) (s : State) : Result :=
  whenIdle s (raise .ok { s with crc := checksum bs })

end Sys2Proof.Machine
end

