-- ==== Sys2Proof/Machine/Frame.lean ====
section
/-! DEFINITION. The frame codec (41_frame.md): its functions and FRAME_ENCODE, FRAME_DECODE. -/

namespace Sys2Proof.Machine

/-- `frame(a, c, p)` (R120). -/
def frame (a c : Byte) (p : List Byte) : List Byte :=
  rawFrame a c p (checksum (a :: c :: p))

/-- A valid frame: at least 4 bytes, checksum 0 (R122). -/
def validFrame (f : List Byte) : Bool := decide (4 ≤ f.length) && checksum f == 0x0000#16

/-- The three matching checks of R121, R124 and R151 in their order, on a frame whose checksum is `residue`: the first
that fails. -/
def frameError (f : List Byte) (ea ec : Byte) (residue : Word16) : Option Code :=
  if byteAt f 0 ≠ ea then some .addressMismatch
  else if byteAt f 1 ≠ ec then some .commandMismatch
  else if residue ≠ 0x0000#16 then some .checksumInvalid
  else none

/-- `unframe(f, ea, ec)` (R121). -/
def unframe (f : List Byte) (ea ec : Byte) : Except Code (List Byte) :=
  if f.length < 4 then .error .frameTooShort
  else match frameError f ea ec (checksum f) with
    | some e => .error e
    | none => .ok (payloadOf f)

/-- FRAME_ENCODE a, c, p (R123). -/
def execFrameEncode (a c : Byte) (p : List Byte) (s : State) : Result :=
  whenIdle s <|
    if addrInRange a = false then raise .addressOutOfRange s
    else if Config.maxPayload < p.length then raise .frameTooLong s
    else raise .ok { s.loadTx (frame a c p) with crc := checksum (a :: c :: p) }

/-- FRAME_DECODE ea, ec, f (R124). -/
def execFrameDecode (ea ec : Byte) (f : List Byte) (s : State) : Result :=
  whenIdle s <|
    let s1 := s.clearOutputs
    if f.length < 4 then raise .frameTooShort s1
    else if Config.maxFrame < f.length then raise .frameTooLong s1
    else
      let s2 := { s1 with crc := checksum f }
      match frameError f ea ec s2.crc with
      | some e => raise e s2
      | none => raise .ok { s2.loadOut (payloadOf f) with rspValid := true }

end Sys2Proof.Machine
end

