-- ==== Sys2Proof/Machine/Command.lean ====
section
/-! DEFINITION. The command half (42_command.md): the REQ_* operations, RX_BYTE, completion and the response decoders. -/

namespace Sys2Proof.Machine

/-! ### Requests -/

/-- `req_issue(cmd, p, rsplen, faddr)` (R141). -/
def reqIssue (cmd : Byte) (p : List Byte) (rsplen : Byte) (faddr : Word32) (s : State) : Result :=
  raise .ok
    { (s.loadTx (frame s.addr cmd p)).clearOutputs with
      crc := checksum (s.addr :: cmd :: p)
      pendValid := true
      pendCmd := cmd
      pendRsplen := rsplen
      pendFaddr := faddr
      rxlen := 0#8 }

/-- `req_check()` and then `req_issue` (R140, R141). -/
def request (cmd : Byte) (p : List Byte) (rsplen : Byte) (faddr : Word32) (s : State) : Result :=
  whenIdle s <|
    if s.addr = 0x00#8 then raise .addressUnset s
    else reqIssue cmd p rsplen faddr s

/-- REQ_BOOT_ENTER for given parameters (R142). -/
def bootEnterWith (P : Params) (s : State) : Result :=
  request Config.opcBootEnter (le32 P.bootMagic) 8#8 0x00000000#32 s

/-- REQ_BOOT_ENTER (R142). -/
def execReqBootEnter (s : State) : Result := bootEnterWith Config.hardware s

/-- REQ_READ_CHUNK fa (R143). -/
def execReqReadChunk (fa : Word32) (s : State) : Result :=
  request Config.opcReadChunk (le32 fa) 136#8 fa s

/-- REQ_BOOT_EXIT (R144). -/
def execReqBootExit (s : State) : Result :=
  request Config.opcBootExit [] 4#8 0x00000000#32 s

/-- REQ_WRITE_CHUNK fa, d (R145). -/
def execReqWriteChunk (fa : Word32) (d : List Byte) (s : State) : Result :=
  request Config.opcWriteChunk (le32 fa ++ d) 12#8 fa s

/-! ### Response decoders -/

/-- `rsp_boot_enter(p)` (R152). -/
def rspBootEnter (P : Params) (p : List Byte) (s : State) : Result :=
  let s1 := { s with rspEcho := u32le p 0 }
  if s1.rspEcho ≠ P.bootMagic then raise .magicMismatch s1 else raise .ok s1

/-- `rsp_read_chunk(p)` (R153). -/
def rspReadChunk (p : List Byte) (s : State) : Result :=
  raise .ok { s with rspEcho := u32le p 0 }.setEchoMatch

/-- `rsp_boot_exit(p)` (R154). -/
def rspBootExit (s : State) : Result := raise .ok s

/-- `rsp_write_chunk(p)` (R155). -/
def rspWriteChunk (P : Params) (p : List Byte) (s : State) : Result :=
  let s1 := ({ s with rspEcho := u32le p 0, rspStatus := u32le p 4 }.setEchoMatch).setWriteOk P
  if s1.writeOk = false then raise .writeRejected s1 else raise .ok s1

/-- The `case PEND.cmd of` of R151. The last branch is for no command the block has (log 10). -/
def decodeResponse (P : Params) (p : List Byte) (s : State) : Result :=
  if s.pendCmd = Config.opcBootEnter then rspBootEnter P p s
  else if s.pendCmd = Config.opcReadChunk then rspReadChunk p s
  else if s.pendCmd = Config.opcBootExit then rspBootExit s
  else if s.pendCmd = Config.opcWriteChunk then rspWriteChunk P p s
  else .fault (.unknownPendingCommand s.pendCmd)

/-! ### Reception -/

/-- `complete()` (R151): the exchange ends, the frame is checked, the command's decoder runs. -/
def complete (P : Params) (s : State) : Result :=
  let s1 := { s with pendValid := false }
  let f := s1.rxBytes
  match frameError f s1.addr s1.pendCmd s1.crc with
  | some e => raise e s1
  | none =>
    let p := payloadOf f
    decodeResponse P p { s1.loadOut p with rspValid := true }

/-- The CRC register after one more received byte: restarted at the first byte of a response (R150, R246). -/
def rxCrc (b : Byte) (s : State) : Word16 :=
  crcStep (if s.rxlen = 0#8 then Config.crcInit else s.crc) b

/-- RX_BYTE b for given parameters (R150, R157). -/
def rxByteWith (P : Params) (b : Byte) (s : State) : Result :=
  if s.pendValid = false then raise .noRequestPending s
  else
    let s1 := { s.appendRx b with crc := rxCrc b s }
    if s1.rxlen.toNat < s1.pendRsplen.toNat then raise .receiving s1
    else complete P s1

/-- RX_BYTE b (R150). -/
def execRxByte (b : Byte) (s : State) : Result := rxByteWith Config.hardware b s

/-- RX_FRAME [b0, ..., bk] (R79): RX_BYTE of each byte, in order. -/
def rxFrameWith (P : Params) : List Byte → State → Result
  | [], s => .next s
  | b :: rest, s => andThen (rxByteWith P b s) (rxFrameWith P rest)

end Sys2Proof.Machine
end

