-- ==== Sys2Proof/Machine/Control.lean ====
section
/-! DEFINITION. The control operations (43_control.md): SET_ADDR and ABORT. -/

namespace Sys2Proof.Machine

/-- SET_ADDR a (R180). -/
def execSetAddr (a : Byte) (s : State) : Result :=
  whenIdle s <|
    if addrInRange a = false then raise .addressOutOfRange s
    else raise .ok { s with addr := a }

/-- ABORT (R181). -/
def execAbort (s : State) : Result :=
  if s.pendValid = false then raise .noRequestPending s
  else raise .timeout { s with pendValid := false }

end Sys2Proof.Machine
end

