-- ==== Sys2Proof/Machine/Wire.lean ====
section
/-! DEFINITION. The wire frames (30_encoding.md R80 to R90) as events on the line: a request frame leaves, a response
frame arrives. -/

namespace Sys2Proof.Machine

/-- The host transmits a frame on the line. The block does not drive the line (R25, R20) and reading TXBUF changes nothing
(R56), so no register changes; the history notes the frame. Log 6. -/
def transmit (f : List Byte) (s : State) : Result := .next (s.record (.sent f))

/-- The host feeds a received frame with RX_BYTE, byte by byte (R79, R61). Log 7. -/
def receive (f : List Byte) (s : State) : Result := rxFrameWith Config.hardware f s

/-- BOOT_ENTER request on the line (R83). -/
def execBootEnterRequest (a : Byte) (magic : Word32) (crc : Word16) (s : State) : Result :=
  transmit (rawFrame a Config.opcBootEnter (le32 magic) crc) s

/-- BOOT_ENTER response from the line (R84). -/
def execBootEnterResponse (a : Byte) (magic : Word32) (crc : Word16) (s : State) : Result :=
  receive (rawFrame a Config.opcBootEnter (le32 magic) crc) s

/-- READ_CHUNK request on the line (R85). -/
def execReadChunkRequest (a : Byte) (fa : Word32) (crc : Word16) (s : State) : Result :=
  transmit (rawFrame a Config.opcReadChunk (le32 fa) crc) s

/-- READ_CHUNK response from the line (R86). -/
def execReadChunkResponse (a : Byte) (echo : Word32) (d : List Byte) (crc : Word16) (s : State) : Result :=
  receive (rawFrame a Config.opcReadChunk (le32 echo ++ d) crc) s

/-- BOOT_EXIT request on the line (R87). -/
def execBootExitRequest (a : Byte) (crc : Word16) (s : State) : Result :=
  transmit (rawFrame a Config.opcBootExit [] crc) s

/-- BOOT_EXIT response from the line (R88). -/
def execBootExitResponse (a : Byte) (crc : Word16) (s : State) : Result :=
  receive (rawFrame a Config.opcBootExit [] crc) s

/-- WRITE_CHUNK request on the line (R89). -/
def execWriteChunkRequest (a : Byte) (fa : Word32) (d : List Byte) (crc : Word16) (s : State) : Result :=
  transmit (rawFrame a Config.opcWriteChunk (le32 fa ++ d) crc) s

/-- WRITE_CHUNK response from the line (R90). -/
def execWriteChunkResponse (a : Byte) (echo status : Word32) (crc : Word16) (s : State) : Result :=
  receive (rawFrame a Config.opcWriteChunk (le32 echo ++ le32 status) crc) s

end Sys2Proof.Machine
end

