-- ==== Sys2Proof/Machine/Dispatch.lean ====
section
/-! DEFINITION. One arm per instruction. -/

namespace Sys2Proof.Machine

def exec (i : Instr) (s : State) : Host.Outcome State Fault Refusal :=
  match i with
  | .crcInit => Sys2Proof.Machine.execCrcInit s
  | .crcByte b => Sys2Proof.Machine.execCrcByte b s
  | .crcBlock bs => Sys2Proof.Machine.execCrcBlock bs s
  | .setAddr a => Sys2Proof.Machine.execSetAddr a s
  | .abort => Sys2Proof.Machine.execAbort s
  | .frameEncode a c p => Sys2Proof.Machine.execFrameEncode a c p s
  | .frameDecode ea ec f => Sys2Proof.Machine.execFrameDecode ea ec f s
  | .reqBootEnter => Sys2Proof.Machine.execReqBootEnter s
  | .reqReadChunk fa => Sys2Proof.Machine.execReqReadChunk fa s
  | .reqBootExit => Sys2Proof.Machine.execReqBootExit s
  | .reqWriteChunk fa d => Sys2Proof.Machine.execReqWriteChunk fa d s
  | .rxByte b => Sys2Proof.Machine.execRxByte b s
  | .bootEnterRequest a magic crc => Sys2Proof.Machine.execBootEnterRequest a magic crc s
  | .bootEnterResponse a magic crc => Sys2Proof.Machine.execBootEnterResponse a magic crc s
  | .readChunkRequest a fa crc => Sys2Proof.Machine.execReadChunkRequest a fa crc s
  | .readChunkResponse a echo d crc => Sys2Proof.Machine.execReadChunkResponse a echo d crc s
  | .bootExitRequest a crc => Sys2Proof.Machine.execBootExitRequest a crc s
  | .bootExitResponse a crc => Sys2Proof.Machine.execBootExitResponse a crc s
  | .writeChunkRequest a fa d crc => Sys2Proof.Machine.execWriteChunkRequest a fa d crc s
  | .writeChunkResponse a echo status crc => Sys2Proof.Machine.execWriteChunkResponse a echo status crc s

end Sys2Proof.Machine
end

