-- ==== Sys2Proof/Machine/HostAccess.lean ====
section
/-! DEFINITION. What the host does beside operations: register reads and writes (20_memory.md section 2), reset
(70_reset_and_hazards.md R240), transfers that are no instruction (30_encoding.md R74, R75). -/

namespace Sys2Proof.Machine

/-- The registers of R53 that are no buffer: offset, width in bytes, value. -/
def registerMap (s : State) : List (Nat × Nat × Word32) :=
  [(0x000, 2, s.status.setWidth 32),
   (0x002, 2, s.crc.setWidth 32),
   (0x004, 1, s.addr.setWidth 32),
   (0x005, 1, s.txlen.setWidth 32),
   (0x006, 1, s.rxlen.setWidth 32),
   (0x007, 1, s.outlen.setWidth 32),
   (0x008, 1, s.pendCmd.setWidth 32),
   (0x009, 1, s.pendRsplen.setWidth 32),
   (0x00C, 4, s.pendFaddr),
   (0x010, 4, s.rspEcho),
   (0x014, 4, s.rspStatus)]

/-- The buffers of R53: first offset, capacity, current length. -/
def bufferMap (s : State) : List (Nat × Nat × Nat) :=
  [(txBase, Config.maxFrame, s.txlen.toNat),
   (rxBase, Config.maxFrame, s.rxlen.toNat),
   (outBase, Config.maxPayload, s.outlen.toNat)]

/-- The buffer an offset lies in. -/
def bufferAt (s : State) (addr : Nat) : Option (Nat × Nat × Nat) :=
  (bufferMap s).find? fun r => decide (r.1 ≤ addr ∧ addr < r.1 + r.2.1)

/-- `MemRead(addr, n)` (R52): the value as one integer (R59), or why R55 does not admit the read. It gives no new state:
a read changes nothing (R56). Log 12. -/
def memRead (s : State) (addr n : Nat) : Except Fault Word32 :=
  match (registerMap s).find? fun r => r.1 == addr && r.2.1 == n with
  | some r => .ok r.2.2
  | none => match bufferAt s addr with
    | none => .error (.readRefused addr n)
    | some r =>
      if n ≠ 1 then .error (.readRefused addr n)
      else if r.2.2 ≤ addr - r.1 then .error (.unspecifiedByte addr)
      else .ok ((Memory.read s.mem addr).setWidth 32)

/-- A host read: the value goes to the history; an inadmissible one is a model fault (R206). -/
def hostRead (addr n : Nat) (s : State) : Result :=
  match memRead s addr n with
  | .ok v => .next (s.record (.readValue addr n v))
  | .error e => .fault e

/-- A host write: refused at every offset (R54). -/
def hostWrite (addr n _v : Nat) (_s : State) : Result := .fault (.writeRefused addr n)

/-- Reset (R240): every piece of the block's state as R34 lists it. The host's own actions and history stay.
Log 12. -/
def hostReset (s : State) : Result :=
  .next ({ State.reset with inbox := s.inbox, events := s.events }.record .wasReset)

/-- Bytes that are no instruction. A message: IllegalOp, whatever PEND.valid (R74, R75). A frame on the line that is none
of R82's: it leaves or arrives like any other (R79, R158). Log 12. -/
def undecoded (t : Transfer) (s : State) : Result :=
  match t with
  | .message _ => raise .illegalOp s
  | .lineOut f => transmit f s
  | .lineIn f => receive f s

/-- Nothing asked: the block waits, and nothing advances with time (R207, R250). -/
def idle (s : State) : Result := .next s

end Sys2Proof.Machine
end

