-- ==== Sys2Proof/Machine/Step.lean ====
section
/-! DEFINITION. One step: the host's next action, performed whole (20_memory.md R60). -/

namespace Sys2Proof.Machine

/-- The bytes of a transfer, decoded and run (R74, R77). -/
def runTransfer (t : Transfer) (s : State) : Host.Outcome State Fault Refusal :=
  match decode t with
  | .ok i => exec i s
  | .error _ => undecoded t s

/-- The oldest action of the inbox, taken off and performed; with an empty inbox the block waits. -/
def step (s : State) : Host.Outcome State Fault Refusal :=
  match s.inbox with
  | [] => idle s
  | .transfer t :: rest => runTransfer t { s with inbox := rest }
  | .memRead addr n :: rest => hostRead addr n { s with inbox := rest }
  | .memWrite addr n v :: rest => hostWrite addr n v { s with inbox := rest }
  | .reset :: rest => hostReset { s with inbox := rest }

/-- The state in which the instruction of a table word is the host's next transfer. -/
def State.withFetchWord (s : State) (nbits w : Nat) : State :=
  { s with inbox := .transfer (tableTransfer nbits w) :: s.inbox }

end Sys2Proof.Machine
end

