-- ==== Sys2Proof/Machine/Assembler.lean ====
section
/-! DEFINITION. The assembler: the line syntax of 30_encoding.md R78 and the pseudo-operations of R79. A line is a list of
characters. Logs 13 and 14. -/

namespace Sys2Proof.Machine

/-- Why a line is an assembly error (R78). The four kinds and their order are the model's: log 14. -/
inductive AsmError where
  | unknownMnemonic
  | badOperands
  | operandDoesNotFit
  | byteStringLength
  deriving DecidableEq, Repr

/-- An operand as written: a literal, a byte string, a quoted text (R78, R79). -/
inductive AsmOperand where
  | number (n : Nat)
  | bytes (bs : List Nat)
  | text (cs : List Char)
  deriving DecidableEq, Repr

/-! ### Reading a line -/

/-- A blank between tokens. -/
def isBlank (c : Char) : Bool := c == ' ' || c == '\t'

/-- Blanks off both ends. -/
def trimBlanks (cs : List Char) : List Char :=
  ((cs.dropWhile isBlank).reverse.dropWhile isBlank).reverse

/-- The value of a digit up to hexadecimal. -/
def digitValue (c : Char) : Option Nat :=
  let n := c.toNat
  if 48 ≤ n ∧ n ≤ 57 then some (n - 48)
  else if 65 ≤ n ∧ n ≤ 70 then some (n - 55)
  else if 97 ≤ n ∧ n ≤ 102 then some (n - 87)
  else none

/-- Digits to a number, after the digits already read. -/
def numeral (base : Nat) (acc : Nat) : List Char → Option Nat
  | [] => some acc
  | c :: cs => match digitValue c with
    | none => none
    | some d => if d < base then numeral base (acc * base + d) cs else none

/-- A literal: decimal, or hexadecimal after `0x` (R78). -/
def parseNumber : List Char → Option Nat
  | '0' :: 'x' :: d :: ds => numeral 16 0 (d :: ds)
  | d :: ds => numeral 10 0 (d :: ds)
  | [] => none

/-- A byte in brackets: hexadecimal, with or without `0x` (95 section 0, R123, P1). Log 13. -/
def parseHexByte : List Char → Option Nat
  | '0' :: 'x' :: d :: ds => numeral 16 0 (d :: ds)
  | d :: ds => numeral 16 0 (d :: ds)
  | [] => none

/-- Pairs of hexadecimal digits: the bytes of `x"0166"` (R78). -/
def hexPairs : List Char → Option (List Nat)
  | [] => some []
  | [_] => none
  | a :: b :: rest => match numeral 16 0 [a, b], hexPairs rest with
    | some n, some ns => some (n :: ns)
    | _, _ => none

/-- Split at the commas that stand in no bracket and no quotes; `closing` is the character awaited. -/
def splitCommas (closing : Option Char) (acc : List Char) : List Char → List (List Char)
  | [] => [acc.reverse]
  | c :: cs => match closing with
    | some e => splitCommas (if c = e then none else some e) (c :: acc) cs
    | none =>
      if c = ',' then acc.reverse :: splitCommas none [] cs
      else if c = '[' then splitCommas (some ']') (c :: acc) cs
      else if c = '"' then splitCommas (some '"') (c :: acc) cs
      else splitCommas none (c :: acc) cs

/-- All the answers, or none. -/
def allSome {α : Type} : List (Option α) → Option (List α)
  | [] => some []
  | none :: _ => none
  | some a :: rest => (allSome rest).map (a :: ·)

/-- Comma-separated pieces, trimmed; nothing at all is no piece. -/
def pieces (cs : List Char) : List (List Char) :=
  if trimBlanks cs = [] then [] else (splitCommas none [] cs).map trimBlanks

/-- One operand (R78, R79). -/
def parseOperand (cs : List Char) : Option AsmOperand :=
  match cs with
  | '[' :: rest => match rest.reverse with
    | ']' :: body => (allSome ((pieces body.reverse).map parseHexByte)).map .bytes
    | _ => none
  | 'x' :: '"' :: rest => match rest.reverse with
    | '"' :: body => (hexPairs body.reverse).map .bytes
    | _ => none
  | '"' :: rest => match rest.reverse with
    | '"' :: body => some (.text body.reverse)
    | _ => none
  | _ => (parseNumber cs).map .number

/-! ### Fitting operands to their fields -/

/-- An `imm8` (R78). -/
def fitByte (n : Nat) : Except AsmError Byte :=
  if n < 2 ^ 8 then .ok (BitVec.ofNat 8 n) else .error .operandDoesNotFit

/-- An `imm32` (R78). -/
def fitWord (n : Nat) : Except AsmError Word32 :=
  if n < 2 ^ 32 then .ok (BitVec.ofNat 32 n) else .error .operandDoesNotFit

/-- A byte string of at most `most` bytes (R78). -/
def fitBytes (most : Nat) (bs : List Nat) : Except AsmError (List Byte) :=
  if bs.any (fun n => decide (2 ^ 8 ≤ n)) then .error .operandDoesNotFit
  else if most < bs.length then .error .byteStringLength
  else .ok (bs.map (BitVec.ofNat 8))

/-- Exactly one chunk (R78: "exactly 128 for F3"). -/
def fitChunk (bs : List Nat) : Except AsmError (List Byte) :=
  if bs.length = Config.chunk then fitBytes Config.chunk bs else .error .byteStringLength

/-- The ASCII codes of a text (R79); a character that has none does not fit: log 13. -/
def fitText (cs : List Char) : Except AsmError (List Byte) :=
  if cs.any (fun c => decide (128 ≤ c.toNat)) then .error .operandDoesNotFit
  else fitBytes 65535 (cs.map Char.toNat)

/-! ### Operations and pseudo-operations -/

/-- The operations a mnemonic with its operands stands for, in order (R78, R79). -/
def assembleOp (mnemonic : List Char) (ops : List AsmOperand) : Except AsmError (List Instr) :=
  if mnemonic = "CRC_INIT".toList then match ops with
    | [] => .ok [.crcInit]
    | _ => .error .badOperands
  else if mnemonic = "CRC_BYTE".toList then match ops with
    | [.number b] => (fitByte b).map fun b => [.crcByte b]
    | _ => .error .badOperands
  else if mnemonic = "CRC_BLOCK".toList then match ops with
    | [.bytes s] => (fitBytes 65535 s).map fun s => [.crcBlock s]
    | _ => .error .badOperands
  else if mnemonic = "SET_ADDR".toList then match ops with
    | [.number a] => (fitByte a).map fun a => [.setAddr a]
    | _ => .error .badOperands
  else if mnemonic = "ABORT".toList then match ops with
    | [] => .ok [.abort]
    | _ => .error .badOperands
  else if mnemonic = "FRAME_ENCODE".toList then match ops with
    | [.number a, .number c, .bytes p] =>
      (fitByte a).bind fun a => (fitByte c).bind fun c => (fitBytes 255 p).map fun p => [.frameEncode a c p]
    | _ => .error .badOperands
  else if mnemonic = "FRAME_DECODE".toList then match ops with
    | [.number ea, .number ec, .bytes f] =>
      (fitByte ea).bind fun ea => (fitByte ec).bind fun ec => (fitBytes 255 f).map fun f => [.frameDecode ea ec f]
    | _ => .error .badOperands
  else if mnemonic = "REQ_BOOT_ENTER".toList then match ops with
    | [] => .ok [.reqBootEnter]
    | _ => .error .badOperands
  else if mnemonic = "REQ_READ_CHUNK".toList then match ops with
    | [.number fa] => (fitWord fa).map fun fa => [.reqReadChunk fa]
    | _ => .error .badOperands
  else if mnemonic = "REQ_BOOT_EXIT".toList then match ops with
    | [] => .ok [.reqBootExit]
    | _ => .error .badOperands
  else if mnemonic = "REQ_WRITE_CHUNK".toList then match ops with
    | [.number fa, .bytes d] => (fitWord fa).bind fun fa => (fitChunk d).map fun d => [.reqWriteChunk fa d]
    | _ => .error .badOperands
  else if mnemonic = "RX_BYTE".toList then match ops with
    | [.number b] => (fitByte b).map fun b => [.rxByte b]
    | _ => .error .badOperands
  else if mnemonic = "RX_FRAME".toList then match ops with
    | [.bytes f] => (fitBytes f.length f).map fun f => f.map .rxByte
    | _ => .error .badOperands
  else if mnemonic = "CRC_ASCII".toList then match ops with
    | [.text t] => (fitText t).map fun s => [.crcBlock s]
    | _ => .error .badOperands
  else if mnemonic = "CRC_SEQ".toList then match ops with
    | [.bytes s] => (fitBytes s.length s).map fun s => .crcInit :: s.map .crcByte
    | _ => .error .badOperands
  else .error .unknownMnemonic

/-- One line (R78): the mnemonic, a blank, the operands separated by commas. -/
def assembleLine (line : List Char) : Except AsmError (List Instr) :=
  let cs := trimBlanks line
  let mnemonic := cs.takeWhile fun c => !isBlank c
  match allSome ((pieces (cs.drop mnemonic.length)).map parseOperand) with
  | none => .error .badOperands
  | some ops => assembleOp mnemonic ops

/-- A program: its lines in order, to the transfers the host makes. -/
def assemble (lines : List (List Char)) : Except AsmError (List Transfer) :=
  match lines with
  | [] => .ok []
  | l :: ls => (assembleLine l).bind fun is => (assemble ls).map fun ts => is.map encode ++ ts

end Sys2Proof.Machine
end

