-- ==== Sys2Proof/Safety.lean ====
section
/-! DEFINITION. What claims about runs speak of: quiescence (R249), the invariant of every state the block can be in, the
host's first duty (R248). -/

namespace Sys2Proof.Machine

/-- No request outstanding (R249). -/
def State.quiescent (s : State) : Bool := !s.pendValid

/-- A run of `n` steps that ends as R249 asks: quiescent, and no model fault on the way (R206). -/
def completesRun (n : Nat) (s : State) : Bool :=
  match Sys2Proof.core.run n s with
  | .next t => t.quiescent
  | .fault _ => false
  | .refused _ => false

/-- Duty 1 of R248: the frame the host sends is the whole transmit stream. The block does not check it. -/
def hostSendsTxFrame (f : List Byte) (s : State) : Prop := f = s.txFrame

/-- The descriptors a REQ_* operation can leave: command, response length, flash address (R142 to R145). -/
def pendShape (cmd rsplen : Byte) (faddr : Word32) : Bool :=
  (cmd == Config.opcBootEnter && rsplen == 8#8 && faddr == 0#32)
    || (cmd == Config.opcReadChunk && rsplen == 136#8)
    || (cmd == Config.opcBootExit && rsplen == 4#8 && faddr == 0#32)
    || (cmd == Config.opcWriteChunk && rsplen == 12#8)

/-- An offset inside one of the three buffers (R53). -/
def inBuffers (a : Nat) : Bool :=
  decide (txBase ≤ a ∧ a < txBase + Config.maxFrame)
    || decide (rxBase ≤ a ∧ a < rxBase + Config.maxFrame)
    || decide (outBase ≤ a ∧ a < outBase + Config.maxPayload)

/-- What holds at reset and after every step. -/
structure State.Inv (s : State) : Prop where
  /-- The memory is in its canonical form. -/
  memWf : Memory.wf s.mem = true
  /-- Nothing is stored outside the buffers (R53). -/
  memInBuffers : ∀ c ∈ s.mem, inBuffers c.1 = true
  /-- ADDR is 0 or a legal address (R22). -/
  addrLegal : s.addr = 0x00#8 ∨ addrInRange s.addr = true
  /-- TXLEN is at most 136 (R25). -/
  txlenBound : s.txlen.toNat ≤ Config.maxFrame
  /-- RXLEN is at most 136 (R26). -/
  rxlenBound : s.rxlen.toNat ≤ Config.maxFrame
  /-- OUTLEN is at most 132 (R27). -/
  outlenBound : s.outlen.toNat ≤ Config.maxPayload
  /-- OUTBUF holds a payload only when it passed frame-level decode (R23). -/
  outNeedsRspValid : s.outlen ≠ 0#8 → s.rspValid = true
  /-- WRITE_OK is 1 only for a status in WRITE_OK_SET (R23). -/
  writeOkStatus : s.writeOk = true → s.rspValid = true ∧ writeAccepted Config.hardware s.rspStatus = true
  /-- ECHO_MATCH is 1 only for an echo of the requested address (R23). -/
  echoMatchEcho : s.echoMatch = true → s.rspValid = true ∧ s.rspEcho = s.pendFaddr
  /-- The descriptor of an open exchange is one that a request leaves (R142 to R145). -/
  pendShaped : s.pendValid = true → pendShape s.pendCmd s.pendRsplen s.pendFaddr = true
  /-- A request needs a bound address, and ADDR is frozen while it is open (R140, R245). -/
  pendBound : s.pendValid = true → s.addr ≠ 0x00#8
  /-- An open exchange has not received all of its response (R150). -/
  pendReceiving : s.pendValid = true → s.rxlen.toNat < s.pendRsplen.toNat
  /-- The outputs stay cleared while an exchange is open (R141). -/
  pendCleared : s.pendValid = true → s.rspValid = false ∧ s.outlen = 0#8
  /-- CRC is the checksum of what has been received (R150). -/
  pendCrc : s.pendValid = true → s.rxlen ≠ 0#8 → s.crc = checksum s.rxBytes
  /-- TXBUF holds the valid request frame of the open exchange (R51, R141). -/
  pendTx : s.pendValid = true →
    validFrame s.txFrame = true ∧ byteAt s.txFrame 0 = s.addr ∧ byteAt s.txFrame 1 = s.pendCmd

end Sys2Proof.Machine
end

