-- ==== Sys2Proof/Certificates/Slice0/Obligations.lean ====
section
/-! DEFINITION. The statements for the provers. -/

namespace Sys2Proof.Machine

/-! ### Words of the statements -/

/-- `s` with nothing changed but the result code and its entry in the history (R200, R205; the history is log 1). -/
def answer (c : Code) (s : State) : State := { s with code := c, events := .result c :: s.events }

/-- Memory `m` is `m0` with the bytes `bs` stored from `base` on: every byte of memory is said. -/
def storesAt (m m0 : Memory) (base : Nat) (bs : List Byte) : Prop :=
  ∀ a, Memory.read m a = if base ≤ a ∧ a < base + bs.length then byteAt bs (a - base) else Memory.read m0 a

/-- Memory `m` is `m0` with the byte `b` stored at RXBUF[n] and then the payload `p` stored in OUTBUF. -/
def storesReply (m m0 : Memory) (n : Nat) (b : Byte) (p : List Byte) : Prop :=
  ∃ m1, storesAt m1 m0 (rxBase + n) [b] ∧ storesAt m m1 outBase p

/-- Memory `m` is `m0` with the frame `f` stored in RXBUF and then the payload `p` stored in OUTBUF. -/
def storesFrameAndReply (m m0 : Memory) (f p : List Byte) : Prop :=
  ∃ m1, storesAt m1 m0 rxBase f ∧ storesAt m m1 outBase p

/-- Every message that begins with `code` and is not one of `good` raises IllegalOp and changes nothing else (R74). -/
def malformedRaises (code : Byte) (good : List Byte → Prop) : Prop :=
  ∀ (m : List Byte) (s : State), m.head? = some code → ¬ good m →
    runTransfer (.message m) s = .next (answer .illegalOp s)

/-- While a request is outstanding the instruction raises RequestOutstanding and changes nothing else. -/
def refusedWhilePending (i : Instr) : Prop :=
  ∀ s : State, s.pendValid = true → exec i s = .next (answer .requestOutstanding s)

/-- A frame with bit `k` flipped: bit k mod 8 of byte k / 8. -/
def flipBit (f : List Byte) (k : Nat) : List Byte :=
  f.set (k / 8) (byteAt f (k / 8) ^^^ (1#8 <<< (k % 8)))

/-- What a REQ_* operation leaves of a state: the frame `f` in TXBUF, the checksum `crc`, the descriptor (R141). -/
def requested (s : State) (m : Memory) (f : List Byte) (crc : Word16) (cmd rsplen : Byte) (faddr : Word32) : State :=
  { s with
    mem := m
    txlen := BitVec.ofNat 8 f.length
    crc := crc
    pendValid := true
    pendCmd := cmd
    pendRsplen := rsplen
    pendFaddr := faddr
    rxlen := 0#8
    outlen := 0#8
    rspValid := false
    writeOk := false
    echoMatch := false
    code := .ok
    events := .result .ok :: s.events }

/-- The request of command `cmd` with payload `p`, from every state that may issue it: the frame is in TXBUF and nowhere
else, and the state is the one R141 says. -/
def issues (i : Instr) (cmd : Byte) (p : List Byte) (rsplen : Byte) (faddr : Word32) : Prop :=
  ∀ s : State, s.pendValid = false → s.addr ≠ 0x00#8 →
    ∃ m, exec i s = .next (requested s m (frame s.addr cmd p) (checksum (s.addr :: cmd :: p)) cmd rsplen faddr)
      ∧ storesAt m s.mem txBase (frame s.addr cmd p)

/-- The operations of the port, R72: all instructions but the wire frames. -/
def isOperation : Instr → Bool
  | .crcInit | .crcByte _ | .crcBlock _ | .setAddr _ | .abort | .frameEncode _ _ _ | .frameDecode _ _ _
  | .reqBootEnter | .reqReadChunk _ | .reqBootExit | .reqWriteChunk _ _ | .rxByte _ => true
  | .bootEnterRequest _ _ _ | .bootEnterResponse _ _ _ | .readChunkRequest _ _ _ | .readChunkResponse _ _ _ _
  | .bootExitRequest _ _ | .bootExitResponse _ _ | .writeChunkRequest _ _ _ _ | .writeChunkResponse _ _ _ _ => false

/-- The four REQ_* operations. -/
def isRequest : Instr → Bool
  | .reqBootEnter | .reqReadChunk _ | .reqBootExit | .reqWriteChunk _ _ => true
  | .crcInit | .crcByte _ | .crcBlock _ | .setAddr _ | .abort | .frameEncode _ _ _ | .frameDecode _ _ _ | .rxByte _
  | .bootEnterRequest _ _ _ | .bootEnterResponse _ _ _ | .readChunkRequest _ _ _ | .readChunkResponse _ _ _ _
  | .bootExitRequest _ _ | .bootExitResponse _ _ | .writeChunkRequest _ _ _ _ | .writeChunkResponse _ _ _ _ => false

/-- RX_BYTE and the response frames, which are sequences of RX_BYTE. -/
def isReception : Instr → Bool
  | .rxByte _ | .bootEnterResponse _ _ _ | .readChunkResponse _ _ _ _ | .bootExitResponse _ _
  | .writeChunkResponse _ _ _ _ => true
  | .crcInit | .crcByte _ | .crcBlock _ | .setAddr _ | .abort | .frameEncode _ _ _ | .frameDecode _ _ _
  | .reqBootEnter | .reqReadChunk _ | .reqBootExit | .reqWriteChunk _ _
  | .bootEnterRequest _ _ _ | .readChunkRequest _ _ _ | .bootExitRequest _ _ | .writeChunkRequest _ _ _ _ => false

/-- Run instructions in order (R60). -/
def execAll : List Instr → State → Result
  | [], s => .next s
  | i :: is, s => andThen (exec i s) (execAll is)

/-- The last byte of an open exchange's response, whose whole frame passes the checks with payload `p`. -/
def completesWith (s : State) (b : Byte) (p : List Byte) : Prop :=
  s.Inv ∧ s.pendValid = true ∧ s.rxlen.toNat + 1 = s.pendRsplen.toNat
    ∧ unframe (s.rxBytes ++ [b]) s.addr s.pendCmd = .ok p

/-- What every passed completion leaves, before the command's own fields (R151). -/
def completed (s : State) (m : Memory) (p : List Byte) (c : Code) : State :=
  { s with
    rxlen := s.pendRsplen
    crc := 0x0000#16
    pendValid := false
    mem := m
    outlen := BitVec.ofNat 8 p.length
    rspValid := true
    code := c
    events := .result c :: s.events }

/-- What a whole response frame of `n` bytes leaves, before the command's own fields (R79, R151). -/
def received (s : State) (m : Memory) (n : Nat) (p : List Byte) (c : Code) : State :=
  { s with
    rxlen := BitVec.ofNat 8 n
    crc := 0x0000#16
    pendValid := false
    mem := m
    outlen := BitVec.ofNat 8 p.length
    rspValid := true
    code := c
    events := .result c :: (List.replicate (n - 1) (.result .receiving) ++ s.events) }

/-- A fresh exchange of command `cmd` that awaits `n` bytes. -/
def awaits (s : State) (cmd : Byte) (n : Nat) : Prop :=
  s.pendValid = true ∧ s.pendCmd = cmd ∧ s.pendRsplen = BitVec.ofNat 8 n ∧ s.rxlen = 0#8

end Sys2Proof.Machine

open Sys2Proof Sys2Proof.Machine

/-! ### The checksum (40_crc.md) -/

/-- R101, R103: start from 0xFFFF, fold crc_step over the bytes in order, no final XOR; nothing gives 0xFFFF. -/
def Obligations.ChecksumFoldsCrcStep : Prop :=
  checksum [] = 0xFFFF#16 ∧ ∀ (s : List Byte) (b : Byte), checksum (s ++ [b]) = crcStep (checksum s) b

/-- R102. -/
def Obligations.ChecksumResidueIsZero : Prop :=
  ∀ s : List Byte, checksum (s ++ le16 (checksum s)) = 0x0000#16

/-- R104, its third bullet. -/
def Obligations.CrcStepIsAffine : Prop :=
  (∀ (c1 c2 : Word16) (b1 b2 : Byte),
    crcStep (c1 ^^^ c2) (b1 ^^^ b2) = crcStep c1 b1 ^^^ crcStep c2 b2 ^^^ crcStep 0#16 0#8)
  ∧ crcStep 0#16 0#8 = 0#16

/-- R108: one flipped bit of any frame, two flipped bits of an 8-byte frame. -/
def Obligations.FlippedBitsChangeChecksum : Prop :=
  ∀ f : List Byte, checksum f = 0x0000#16 →
    (∀ k, k < 8 * f.length → checksum (flipBit f k) ≠ 0x0000#16)
    ∧ (f.length = 8 → ∀ j k, j < 64 → k < 64 → j ≠ k → checksum (flipBit (flipBit f j) k) ≠ 0x0000#16)

/-- R105. -/
def Obligations.CrcInitRestartsCrc : Prop :=
  encode .crcInit = .message [0x01#8]
  ∧ malformedRaises 0x01#8 (fun m => m = [0x01#8])
  ∧ refusedWhilePending .crcInit
  ∧ ∀ s : State, s.pendValid = false → exec .crcInit s = .next (answer .ok { s with crc := 0xFFFF#16 })

/-- R106, its corner cases and example with it. -/
def Obligations.CrcByteAdvancesCrc : Prop :=
  (∀ b, encode (.crcByte b) = .message [0x02#8, b])
  ∧ malformedRaises 0x02#8 (fun m => ∃ b, m = [0x02#8, b])
  ∧ (∀ b, refusedWhilePending (.crcByte b))
  ∧ (∀ (b : Byte) (s : State), s.pendValid = false →
      exec (.crcByte b) s = .next (answer .ok { s with crc := crcStep s.crc b }))
  ∧ crcStep 0x0000#16 0x00#8 = 0x0000#16 ∧ crcStep 0xFFFF#16 0xFF#8 = 0x00FF#16
  ∧ crcStep 0xFFFF#16 0x31#8 = 0x947E#16

/-- R107. -/
def Obligations.CrcBlockComputesChecksum : Prop :=
  (∀ bs : List Byte, bs.length ≤ 65535 →
    encode (.crcBlock bs) = .message (0x03#8 :: (le16 (BitVec.ofNat 16 bs.length) ++ bs))
    ∧ runTransfer (encode (.crcBlock bs)) = exec (.crcBlock bs))
  ∧ malformedRaises 0x03#8 (fun m => ∃ bs : List Byte, bs.length ≤ 65535 ∧
      m = 0x03#8 :: (le16 (BitVec.ofNat 16 bs.length) ++ bs))
  ∧ (∀ bs, refusedWhilePending (.crcBlock bs))
  ∧ (∀ (bs : List Byte) (s : State), s.pendValid = false →
      exec (.crcBlock bs) s = .next (answer .ok { s with crc := checksum bs }))

/-! ### Control (43_control.md) -/

/-- R180. -/
def Obligations.SetAddrBindsLegalAddress : Prop :=
  (∀ a, encode (.setAddr a) = .message [0x10#8, a])
  ∧ malformedRaises 0x10#8 (fun m => ∃ a, m = [0x10#8, a])
  ∧ (∀ a, refusedWhilePending (.setAddr a))
  ∧ (∀ (a : Byte) (s : State), s.pendValid = false → 1 ≤ a.toNat → a.toNat ≤ 127 →
      exec (.setAddr a) s = .next (answer .ok { s with addr := a })
      ∧ ∀ t, exec (.setAddr a) s = .next t → t.status.getLsbD 5 = true)
  ∧ (∀ (a : Byte) (s : State), s.pendValid = false → (a.toNat = 0 ∨ 128 ≤ a.toNat) →
      exec (.setAddr a) s = .next (answer .addressOutOfRange s))

/-- R181: ABORT of an open exchange, and with none. What came in stays readable: RXLEN, CRC and memory are as before. -/
def Obligations.AbortEndsExchange : Prop :=
  encode .abort = .message [0x11#8]
  ∧ malformedRaises 0x11#8 (fun m => m = [0x11#8])
  ∧ (∀ s : State, s.pendValid = false → exec .abort s = .next (answer .noRequestPending s))
  ∧ (∀ s : State, s.pendValid = true → exec .abort s = .next (answer .timeout { s with pendValid := false }))

/-! ### The frame codec (41_frame.md) -/

/-- R120. -/
def Obligations.FrameIsPrefixAndChecksum : Prop :=
  ∀ (a c : Byte) (p : List Byte),
    frame a c p = ([a, c] ++ p) ++ le16 (checksum ([a, c] ++ p)) ∧ (frame a c p).length = p.length + 4

/-- R121: the first failing check in the listed order, else the payload slice. -/
def Obligations.UnframeReportsFirstFailure : Prop :=
  ∀ (f : List Byte) (ea ec : Byte),
    (f.length < 4 → unframe f ea ec = .error .frameTooShort)
    ∧ (4 ≤ f.length → f[0]? ≠ some ea → unframe f ea ec = .error .addressMismatch)
    ∧ (4 ≤ f.length → f[0]? = some ea → f[1]? ≠ some ec → unframe f ea ec = .error .commandMismatch)
    ∧ (4 ≤ f.length → f[0]? = some ea → f[1]? = some ec → checksum f ≠ 0x0000#16 →
        unframe f ea ec = .error .checksumInvalid)
    ∧ (4 ≤ f.length → f[0]? = some ea → f[1]? = some ec → checksum f = 0x0000#16 →
        unframe f ea ec = .ok (slice f 2 (f.length - 2)) ∧ (slice f 2 (f.length - 2)).length = f.length - 4)

/-- R123: FRAME_ENCODE. -/
def Obligations.FrameEncodePacksTxbuf : Prop :=
  (∀ (a c : Byte) (p : List Byte), p.length ≤ 255 →
    encode (.frameEncode a c p) = .message (0x20#8 :: a :: c :: BitVec.ofNat 8 p.length :: p)
    ∧ runTransfer (encode (.frameEncode a c p)) = exec (.frameEncode a c p))
  ∧ malformedRaises 0x20#8 (fun m => ∃ (a c : Byte) (p : List Byte), p.length ≤ 255 ∧
      m = 0x20#8 :: a :: c :: BitVec.ofNat 8 p.length :: p)
  ∧ (∀ a c p, refusedWhilePending (.frameEncode a c p))
  ∧ ∀ (a c : Byte) (p : List Byte) (s : State), s.pendValid = false →
      ((a.toNat < 1 ∨ 127 < a.toNat) → exec (.frameEncode a c p) s = .next (answer .addressOutOfRange s))
      ∧ (1 ≤ a.toNat → a.toNat ≤ 127 → 132 < p.length →
          exec (.frameEncode a c p) s = .next (answer .frameTooLong s))
      ∧ (1 ≤ a.toNat → a.toNat ≤ 127 → p.length ≤ 132 →
          ∃ m, exec (.frameEncode a c p) s = .next (answer .ok
              { s with mem := m, txlen := BitVec.ofNat 8 (p.length + 4), crc := checksum (a :: c :: p) })
            ∧ storesAt m s.mem txBase (frame a c p))

/-- R124: FRAME_DECODE. `s1` is the state with the four outputs cleared, which every check finds. -/
def Obligations.FrameDecodeChecksAndDelivers : Prop :=
  (∀ (ea ec : Byte) (f : List Byte), f.length ≤ 255 →
    encode (.frameDecode ea ec f) = .message (0x21#8 :: ea :: ec :: BitVec.ofNat 8 f.length :: f)
    ∧ runTransfer (encode (.frameDecode ea ec f)) = exec (.frameDecode ea ec f))
  ∧ malformedRaises 0x21#8 (fun m => ∃ (ea ec : Byte) (f : List Byte), f.length ≤ 255 ∧
      m = 0x21#8 :: ea :: ec :: BitVec.ofNat 8 f.length :: f)
  ∧ (∀ ea ec f, refusedWhilePending (.frameDecode ea ec f))
  ∧ ∀ (ea ec : Byte) (f : List Byte) (s : State), s.pendValid = false →
      let s1 : State := { s with rspValid := false, writeOk := false, echoMatch := false, outlen := 0#8 }
      (f.length < 4 → exec (.frameDecode ea ec f) s = .next (answer .frameTooShort s1))
      ∧ (136 < f.length → exec (.frameDecode ea ec f) s = .next (answer .frameTooLong s1))
      ∧ (4 ≤ f.length → f.length ≤ 136 →
          (∀ e, unframe f ea ec = .error e →
            exec (.frameDecode ea ec f) s = .next (answer e { s1 with crc := checksum f }))
          ∧ (∀ p, unframe f ea ec = .ok p →
            ∃ m, exec (.frameDecode ea ec f) s = .next (answer .ok
                { s1 with crc := 0x0000#16, mem := m, outlen := BitVec.ofNat 8 (f.length - 4), rspValid := true })
              ∧ storesAt m s.mem outBase p))

/-- R125: FRAME_ENCODE and then FRAME_DECODE of what it left in TXBUF. -/
def Obligations.EncodeThenDecodeReturnsPayload : Prop :=
  ∀ (a c : Byte) (p : List Byte) (s : State),
    1 ≤ a.toNat → a.toNat ≤ 127 → p.length ≤ 132 → s.pendValid = false →
    ∃ t u, exec (.frameEncode a c p) s = .next t
      ∧ exec (.frameDecode a c t.txFrame) t = .next u
      ∧ u.code = .ok ∧ u.outlen.toNat = p.length ∧ u.outPayload = p

/-- R126: which code a frame with one flipped bit reports. -/
def Obligations.OneFlippedBitIsReported : Prop :=
  ∀ (a c : Byte) (p : List Byte) (s : State) (k : Nat),
    1 ≤ a.toNat → a.toNat ≤ 127 → p.length ≤ 132 → s.pendValid = false → k < 8 * (p.length + 4) →
    ∃ t, exec (.frameDecode a c (flipBit (frame a c p) k)) s = .next t
      ∧ t.code = (if k / 8 = 0 then .addressMismatch else if k / 8 = 1 then .commandMismatch else .checksumInvalid)

/-! ### Requests (42_command.md section 1 and 2) -/

/-- R140: the two checks of every request, in their order, before any write. -/
def Obligations.RequestsCheckPendingThenAddress : Prop :=
  ∀ (i : Instr) (s : State), isRequest i = true →
    (s.pendValid = true → exec i s = .next (answer .requestOutstanding s))
    ∧ (s.pendValid = false → s.addr = 0x00#8 → exec i s = .next (answer .addressUnset s))

/-- R142 with R141: REQ_BOOT_ENTER. -/
def Obligations.BootEnterRequestIssued : Prop :=
  encode .reqBootEnter = .message [0x30#8]
  ∧ malformedRaises 0x30#8 (fun m => m = [0x30#8])
  ∧ refusedWhilePending .reqBootEnter
  ∧ (∀ s : State, s.pendValid = false → s.addr = 0x00#8 → exec .reqBootEnter s = .next (answer .addressUnset s))
  ∧ issues .reqBootEnter 100#8 (le32 Config.hardware.bootMagic) 8#8 0#32

/-- R143 with R141: REQ_READ_CHUNK, any flash address. -/
def Obligations.ReadChunkRequestIssued : Prop :=
  (∀ fa, encode (.reqReadChunk fa) = .message (0x31#8 :: le32 fa))
  ∧ malformedRaises 0x31#8 (fun m => ∃ fa, m = 0x31#8 :: le32 fa)
  ∧ (∀ fa, refusedWhilePending (.reqReadChunk fa))
  ∧ (∀ (fa : Word32) (s : State), s.pendValid = false → s.addr = 0x00#8 →
      exec (.reqReadChunk fa) s = .next (answer .addressUnset s))
  ∧ ∀ fa, issues (.reqReadChunk fa) 101#8 (le32 fa) 136#8 fa

/-- R144 with R141: REQ_BOOT_EXIT. -/
def Obligations.BootExitRequestIssued : Prop :=
  encode .reqBootExit = .message [0x32#8]
  ∧ malformedRaises 0x32#8 (fun m => m = [0x32#8])
  ∧ refusedWhilePending .reqBootExit
  ∧ (∀ s : State, s.pendValid = false → s.addr = 0x00#8 → exec .reqBootExit s = .next (answer .addressUnset s))
  ∧ issues .reqBootExit 102#8 [] 4#8 0#32

/-- R145 with R141: REQ_WRITE_CHUNK, one chunk of data. -/
def Obligations.WriteChunkRequestIssued : Prop :=
  (∀ (fa : Word32) (d : List Byte), encode (.reqWriteChunk fa d) = .message (0x33#8 :: (le32 fa ++ d)))
  ∧ malformedRaises 0x33#8 (fun m => ∃ (fa : Word32) (d : List Byte), d.length = 128 ∧ m = 0x33#8 :: (le32 fa ++ d))
  ∧ (∀ fa d, refusedWhilePending (.reqWriteChunk fa d))
  ∧ (∀ (fa : Word32) (d : List Byte) (s : State), s.pendValid = false → s.addr = 0x00#8 →
      exec (.reqWriteChunk fa d) s = .next (answer .addressUnset s))
  ∧ ∀ (fa : Word32) (d : List Byte), d.length = 128 →
      issues (.reqWriteChunk fa d) 103#8 (le32 fa ++ d) 12#8 fa
      ∧ ∀ a, (frame a 103#8 (le32 fa ++ d)).length = 136

/-! ### Reception (42_command.md section 3 to 5) -/

/-- R150, a byte that is not the last: it is stored at RXBUF[RXLEN], the checksum runs on, and the code is Receiving. -/
def Obligations.RxByteAccumulates : Prop :=
  (∀ b, encode (.rxByte b) = .message [0x40#8, b])
  ∧ malformedRaises 0x40#8 (fun m => ∃ b, m = [0x40#8, b])
  ∧ (∀ (b : Byte) (s : State), s.pendValid = false → exec (.rxByte b) s = .next (answer .noRequestPending s))
  ∧ ∀ (b : Byte) (s : State), s.pendValid = true → s.rxlen.toNat + 1 < s.pendRsplen.toNat →
      ∃ m, exec (.rxByte b) s = .next (answer .receiving
          { s with
            mem := m
            rxlen := s.rxlen + 1#8
            crc := crcStep (if s.rxlen = 0#8 then 0xFFFF#16 else s.crc) b })
        ∧ storesAt m s.mem (rxBase + s.rxlen.toNat) [b]

/-- R151, the frame-level failures: the exchange ends with the first failing check of R121, and nothing is decoded. -/
def Obligations.CompletionReportsFrameError : Prop :=
  ∀ (s : State) (b : Byte) (e : Code), s.Inv → s.pendValid = true → s.rxlen.toNat + 1 = s.pendRsplen.toNat →
    unframe (s.rxBytes ++ [b]) s.addr s.pendCmd = .error e →
    (e = .addressMismatch ∨ e = .commandMismatch ∨ e = .checksumInvalid)
    ∧ ∃ m, exec (.rxByte b) s = .next (answer e
          { s with
            mem := m
            rxlen := s.pendRsplen
            crc := checksum (s.rxBytes ++ [b])
            pendValid := false })
        ∧ storesAt m s.mem (rxBase + s.rxlen.toNat) [b]

/-- R152: the last byte of a BOOT_ENTER response. -/
def Obligations.BootEnterResponseDecoded : Prop :=
  ∀ (s : State) (b : Byte) (p : List Byte), completesWith s b p → s.pendCmd = 100#8 →
    p.length = 4 ∧ s.writeOk = false ∧ s.echoMatch = false
    ∧ ∃ m, storesReply m s.mem s.rxlen.toNat b p
      ∧ exec (.rxByte b) s = .next
          { completed s m p (if u32le p 0 = Config.hardware.bootMagic then .ok else .magicMismatch) with
            rspEcho := u32le p 0 }

/-- R153: the last byte of a READ_CHUNK response. -/
def Obligations.ReadChunkResponseDecoded : Prop :=
  ∀ (s : State) (b : Byte) (p : List Byte), completesWith s b p → s.pendCmd = 101#8 →
    p.length = 132 ∧ s.writeOk = false
    ∧ ∃ m, storesReply m s.mem s.rxlen.toNat b p
      ∧ exec (.rxByte b) s = .next
          { completed s m p .ok with
            rspEcho := u32le p 0
            echoMatch := u32le p 0 == s.pendFaddr }

/-- R154: the last byte of a BOOT_EXIT response. -/
def Obligations.BootExitResponseDecoded : Prop :=
  ∀ (s : State) (b : Byte) (p : List Byte), completesWith s b p → s.pendCmd = 102#8 →
    p = [] ∧ s.writeOk = false ∧ s.echoMatch = false
    ∧ ∃ m, storesReply m s.mem s.rxlen.toNat b p ∧ exec (.rxByte b) s = .next (completed s m p .ok)

/-- R155: the last byte of a WRITE_CHUNK response. -/
def Obligations.WriteChunkResponseDecoded : Prop :=
  ∀ (s : State) (b : Byte) (p : List Byte), completesWith s b p → s.pendCmd = 103#8 →
    p.length = 8
    ∧ ∃ (m : Memory) (accepted : Bool), storesReply m s.mem s.rxlen.toNat b p
      ∧ (accepted = true ↔ u32le p 4 = Config.hardware.writeOkA ∨ u32le p 4 = Config.hardware.writeOkB)
      ∧ exec (.rxByte b) s = .next
          { completed s m p (if accepted = true then .ok else .writeRejected) with
            rspEcho := u32le p 0
            rspStatus := u32le p 4
            echoMatch := u32le p 0 == s.pendFaddr
            writeOk := accepted }

/-- R157: bytes after an exchange, or before any, are discarded, each with NoRequestPending; the exchange completes on
the byte that makes its awaited length. -/
def Obligations.SurplusBytesDiscarded : Prop :=
  (∀ (b : Byte) (s : State), s.pendValid = false → exec (.rxByte b) s = .next (answer .noRequestPending s))
  ∧ (∀ (f : List Byte) (s : State), s.Inv → s.pendValid = true → s.rxlen.toNat + f.length = s.pendRsplen.toNat →
      ∃ t, execAll (f.map .rxByte) s = .next t ∧ t.pendValid = false)
  ∧ ∀ (f g : List Byte) (s t : State), execAll (f.map .rxByte) s = .next t → t.pendValid = false → g ≠ [] →
      execAll ((f ++ g).map .rxByte) s = .next
        { t with
          code := .noRequestPending
          events := List.replicate g.length (.result .noRequestPending) ++ t.events }

/-- R158, its first bullet: a response shorter than awaited never completes. -/
def Obligations.ShortResponseKeepsWaiting : Prop :=
  ∀ (bs : List Byte) (s : State), bs ≠ [] → s.pendValid = true →
    s.rxlen.toNat + bs.length < s.pendRsplen.toNat →
    ∃ t, execAll (bs.map .rxByte) s = .next t ∧ t.code = .receiving ∧ t.pendValid = true
      ∧ t.rxlen.toNat = s.rxlen.toNat + bs.length ∧ t.rxBytes = s.rxBytes ++ bs

/-- R156: the two ways an exchange ends, by operations. -/
def Obligations.ExchangeEndsByCompletionOrAbort : Prop :=
  ∀ (i : Instr) (s t : State), s.Inv → isOperation i = true → s.pendValid = true →
    exec i s = .next t → t.pendValid = false →
    (i = .abort ∧ t.code = .timeout)
    ∨ (∃ b, i = .rxByte b ∧ s.rxlen.toNat + 1 = s.pendRsplen.toNat
        ∧ (t.code = .ok ∨ t.code = .addressMismatch ∨ t.code = .commandMismatch ∨ t.code = .checksumInvalid
          ∨ t.code = .magicMismatch ∨ t.code = .writeRejected))

/-! ### The wire frames (30_encoding.md section 5 and 6) -/

/-- R83, R85, R87, R89 with R25: a frame sent on the line changes nothing of the block; the history notes its bytes. The
four request rows, and any frame, be it a command frame or not. That these are events of this model, with this effect, is
the model's choice: log 6, and log 12 for a frame that is no command frame. -/
def Obligations.RequestFramesLeaveTheBlockAlone : Prop :=
  (∀ (a : Byte) (magic : Word32) (crc : Word16) (s : State),
    exec (.bootEnterRequest a magic crc) s = .next
      { s with events := .sent ([a, 100#8] ++ le32 magic ++ le16 crc) :: s.events })
  ∧ (∀ (a : Byte) (fa : Word32) (crc : Word16) (s : State),
    exec (.readChunkRequest a fa crc) s = .next
      { s with events := .sent ([a, 101#8] ++ le32 fa ++ le16 crc) :: s.events })
  ∧ (∀ (a : Byte) (crc : Word16) (s : State),
    exec (.bootExitRequest a crc) s = .next { s with events := .sent ([a, 102#8] ++ le16 crc) :: s.events })
  ∧ (∀ (a : Byte) (fa : Word32) (d : List Byte) (crc : Word16) (s : State),
    exec (.writeChunkRequest a fa d crc) s = .next
      { s with events := .sent ([a, 103#8] ++ le32 fa ++ d ++ le16 crc) :: s.events })
  ∧ (∀ (f : List Byte) (s : State), runTransfer (.lineOut f) s = .next { s with events := .sent f :: s.events })

/-- R25, R82 to R89: what a REQ_* operation leaves in TXBUF is the request frame of its command, as the encoder lays it
out. -/
def Obligations.RequestsLeaveTheirFrame : Prop :=
  ∀ s t : State, s.pendValid = false → s.addr ≠ 0x00#8 →
    (exec .reqBootEnter s = .next t →
      encode (.bootEnterRequest s.addr Config.hardware.bootMagic t.crc) = .lineOut t.txFrame)
    ∧ (∀ fa, exec (.reqReadChunk fa) s = .next t → encode (.readChunkRequest s.addr fa t.crc) = .lineOut t.txFrame)
    ∧ (exec .reqBootExit s = .next t → encode (.bootExitRequest s.addr t.crc) = .lineOut t.txFrame)
    ∧ (∀ (fa : Word32) (d : List Byte), d.length = 128 → exec (.reqWriteChunk fa d) s = .next t →
        encode (.writeChunkRequest s.addr fa d t.crc) = .lineOut t.txFrame)

/-- R84, R152 by R79: a whole valid BOOT_ENTER response frame in a fresh exchange (as RX_FRAME: log 7). -/
def Obligations.BootEnterFrameCompletes : Prop :=
  ∀ (s : State) (magic : Word32), awaits s 100#8 8 →
    ∃ m, storesFrameAndReply m s.mem (frame s.addr 100#8 (le32 magic)) (le32 magic)
      ∧ exec (.bootEnterResponse s.addr magic (checksum (s.addr :: 100#8 :: le32 magic))) s = .next
          { received s m 8 (le32 magic) (if magic = Config.hardware.bootMagic then .ok else .magicMismatch) with
            rspEcho := magic }

/-- R86, R153 by R79: a whole valid READ_CHUNK response frame in a fresh exchange (as RX_FRAME: log 7). -/
def Obligations.ReadChunkFrameCompletes : Prop :=
  ∀ (s : State) (echo : Word32) (d : List Byte), d.length = 128 → awaits s 101#8 136 →
    ∃ m, storesFrameAndReply m s.mem (frame s.addr 101#8 (le32 echo ++ d)) (le32 echo ++ d)
      ∧ exec (.readChunkResponse s.addr echo d (checksum (s.addr :: 101#8 :: (le32 echo ++ d)))) s = .next
          { received s m 136 (le32 echo ++ d) .ok with
            rspEcho := echo
            echoMatch := echo == s.pendFaddr }

/-- R88, R154 by R79: a whole valid BOOT_EXIT response frame in a fresh exchange (as RX_FRAME: log 7). -/
def Obligations.BootExitFrameCompletes : Prop :=
  ∀ s : State, awaits s 102#8 4 →
    ∃ m, storesFrameAndReply m s.mem (frame s.addr 102#8 []) []
      ∧ exec (.bootExitResponse s.addr (checksum [s.addr, 102#8])) s = .next (received s m 4 [] .ok)

/-- R90, R155 by R79: a whole valid WRITE_CHUNK response frame in a fresh exchange (as RX_FRAME: log 7). -/
def Obligations.WriteChunkFrameCompletes : Prop :=
  ∀ (s : State) (echo status : Word32), awaits s 103#8 12 →
    ∃ (m : Memory) (accepted : Bool),
      storesFrameAndReply m s.mem (frame s.addr 103#8 (le32 echo ++ le32 status)) (le32 echo ++ le32 status)
      ∧ (accepted = true ↔ status = Config.hardware.writeOkA ∨ status = Config.hardware.writeOkB)
      ∧ exec (.writeChunkResponse s.addr echo status (checksum (s.addr :: 103#8 :: (le32 echo ++ le32 status)))) s
        = .next
          { received s m 12 (le32 echo ++ le32 status) (if accepted = true then .ok else .writeRejected) with
            rspEcho := echo
            rspStatus := status
            echoMatch := echo == s.pendFaddr
            writeOk := accepted }

/-- R79: from every state, whatever is awaited and however much has come in, a response row is RX_BYTE of each byte of its
encoding, in order, be its address, command or CRC the awaited one or not; so is any frame from the line, be it a command
frame or not. With no request outstanding the bytes are discarded (R157). That these are events of this model, with this
effect, is the model's choice: log 7, and log 12 for a frame that is no command frame. -/
def Obligations.ResponseFramesAreFedByteByByte : Prop :=
  (∀ (i : Instr) (f : List Byte), encode i = .lineIn f → ∀ s : State, exec i s = execAll (f.map .rxByte) s)
  ∧ (∀ (f : List Byte) (s : State), runTransfer (.lineIn f) s = execAll (f.map .rxByte) s)
  ∧ ∀ s : State, s.pendValid = false →
    let discards (i : Instr) (n : Nat) : Prop :=
      exec i s = .next { s with
        code := .noRequestPending
        events := List.replicate n (.result .noRequestPending) ++ s.events }
    (∀ a magic crc, discards (.bootEnterResponse a magic crc) 8)
    ∧ (∀ a echo d crc, d.length = 128 → discards (.readChunkResponse a echo d crc) 136)
    ∧ (∀ a crc, discards (.bootExitResponse a crc) 4)
    ∧ (∀ a echo status crc, discards (.writeChunkResponse a echo status crc) 12)

/-! ### Encoding (30_encoding.md section 1 to 3) -/

/-- R71 to R73, R80 to R90: decoding an encoded well-formed instruction gives it back. -/
def Obligations.DecodeOfEncode : Prop :=
  ∀ i : Instr, i.wellFormed = true → decode (encode i) = .ok i

/-- R71 to R76, R80 to R90: what decodes is the encoding of what it decodes to, and that is well formed: one spelling
per instruction. -/
def Obligations.EncodeOfDecode : Prop :=
  ∀ (t : Transfer) (i : Instr), decode t = .ok i → i.wellFormed = true ∧ encode i = t

/-- R72, R80, R82: words written out from the tables. -/
def Obligations.WrittenOutWordsDecode : Prop :=
  decode (.message [0x01#8]) = .ok .crcInit
  ∧ decode (.message [0x03#8, 0x02#8, 0x00#8, 0x31#8, 0x32#8]) = .ok (.crcBlock [0x31#8, 0x32#8])
  ∧ decode (.message [0x10#8, 0x0A#8]) = .ok (.setAddr 0x0A#8)
  ∧ decode (.message [0x20#8, 0x01#8, 0xE5#8, 0x01#8, 0x02#8]) = .ok (.frameEncode 0x01#8 0xE5#8 [0x02#8])
  ∧ decode (.message [0x31#8, 0x00#8, 0x10#8, 0x00#8, 0x08#8]) = .ok (.reqReadChunk 0x08001000#32)
  ∧ decode (.message [0x40#8, 0x80#8]) = .ok (.rxByte 0x80#8)
  ∧ decode (.lineIn [0x01#8, 0x66#8, 0x80#8, 0x0A#8]) = .ok (.bootExitResponse 0x01#8 0x0A80#16)
  ∧ decode (.lineOut [0x01#8, 0x65#8, 0x00#8, 0x10#8, 0x00#8, 0x08#8, 0x4D#8, 0xC1#8])
      = .ok (.readChunkRequest 0x01#8 0x08001000#32 0xC14D#16)

/-- R74, R75: the three failures in their order and the reserved codes, each IllegalOp with nothing else changed, whatever
PEND.valid. -/
def Obligations.MalformedMessagesRaiseIllegalOp : Prop :=
  ∀ s : State,
    runTransfer (.message []) s = .next (answer .illegalOp s)
    ∧ (∀ (op : Byte) (rest : List Byte),
        op ∉ [0x01#8, 0x02#8, 0x03#8, 0x10#8, 0x11#8, 0x20#8, 0x21#8, 0x30#8, 0x31#8, 0x32#8, 0x33#8, 0x40#8] →
        runTransfer (.message (op :: rest)) s = .next (answer .illegalOp s))
    ∧ (∀ (op : Byte) (rest : List Byte),
        (op.toNat = 0x00 ∨ (0x04 ≤ op.toNat ∧ op.toNat ≤ 0x0F) ∨ (0x12 ≤ op.toNat ∧ op.toNat ≤ 0x1F)
          ∨ (0x22 ≤ op.toNat ∧ op.toNat ≤ 0x2F) ∨ (0x34 ≤ op.toNat ∧ op.toNat ≤ 0x3F) ∨ 0x41 ≤ op.toNat) →
        runTransfer (.message (op :: rest)) s = .next (answer .illegalOp s))
    ∧ (∀ (op : Byte) (rest : List Byte), op ∈ [0x01#8, 0x11#8, 0x30#8, 0x32#8] → rest.length ≠ 0 →
        runTransfer (.message (op :: rest)) s = .next (answer .illegalOp s))
    ∧ (∀ (op : Byte) (rest : List Byte), op ∈ [0x02#8, 0x10#8, 0x40#8] → rest.length ≠ 1 →
        runTransfer (.message (op :: rest)) s = .next (answer .illegalOp s))
    ∧ (∀ rest : List Byte, rest.length ≠ 4 → runTransfer (.message (0x31#8 :: rest)) s = .next (answer .illegalOp s))
    ∧ (∀ rest : List Byte, rest.length ≠ 132 → runTransfer (.message (0x33#8 :: rest)) s = .next (answer .illegalOp s))
    ∧ (∀ (op : Byte) (rest : List Byte), op ∈ [0x20#8, 0x21#8] →
        (rest.length < 3 ∨ rest.length ≠ 3 + (byteAt rest 2).toNat) →
        runTransfer (.message (op :: rest)) s = .next (answer .illegalOp s))
    ∧ (∀ rest : List Byte,
        (rest.length < 2 ∨ rest.length ≠ 2 + (byteAt rest 0).toNat + 256 * (byteAt rest 1).toNat) →
        runTransfer (.message (0x03#8 :: rest)) s = .next (answer .illegalOp s))

/-! ### The step (20_memory.md section 4) and the host's actions -/

/-- R60, R70: the step takes the oldest action off the inbox and performs it whole on the rest; a decoded instruction is
run by `exec`, and with nothing asked the block waits. That the host's actions stand in a list is the model's choice:
log 2. -/
def Obligations.StepRunsDecodedInstruction : Prop :=
  (∀ (s : State) (t : Transfer) (rest : List HostAction) (i : Instr),
    s.inbox = .transfer t :: rest → decode t = .ok i → step s = exec i { s with inbox := rest })
  ∧ (∀ (s : State) (m : List Byte) (rest : List HostAction) (e : DecodeError),
    s.inbox = .transfer (.message m) :: rest → decode (.message m) = .error e →
    step s = .next (answer .illegalOp { s with inbox := rest }))
  ∧ (∀ (s : State) (t : Transfer) (rest : List HostAction),
    s.inbox = .transfer t :: rest → step s = runTransfer t { s with inbox := rest })
  ∧ (∀ s : State, s.inbox = [] → step s = .next s)

/-- R53: the value of every row, and the refused ranges. -/
def Obligations.RegisterMapReads : Prop :=
  ∀ s : State,
    memRead s 0x000 2 = .ok (s.status.setWidth 32)
    ∧ memRead s 0x002 2 = .ok (s.crc.setWidth 32)
    ∧ memRead s 0x004 1 = .ok (s.addr.setWidth 32)
    ∧ memRead s 0x005 1 = .ok (s.txlen.setWidth 32)
    ∧ memRead s 0x006 1 = .ok (s.rxlen.setWidth 32)
    ∧ memRead s 0x007 1 = .ok (s.outlen.setWidth 32)
    ∧ memRead s 0x008 1 = .ok (s.pendCmd.setWidth 32)
    ∧ memRead s 0x009 1 = .ok (s.pendRsplen.setWidth 32)
    ∧ memRead s 0x00C 4 = .ok s.pendFaddr
    ∧ memRead s 0x010 4 = .ok s.rspEcho
    ∧ memRead s 0x014 4 = .ok s.rspStatus
    ∧ (∀ i, i < 136 → i < s.txlen.toNat → memRead s (0x100 + i) 1 = .ok ((byteAt s.txFrame i).setWidth 32))
    ∧ (∀ i, i < 136 → s.txlen.toNat ≤ i → memRead s (0x100 + i) 1 = .error (.unspecifiedByte (0x100 + i)))
    ∧ (∀ i, i < 136 → i < s.rxlen.toNat → memRead s (0x200 + i) 1 = .ok ((byteAt s.rxBytes i).setWidth 32))
    ∧ (∀ i, i < 136 → s.rxlen.toNat ≤ i → memRead s (0x200 + i) 1 = .error (.unspecifiedByte (0x200 + i)))
    ∧ (∀ i, i < 132 → i < s.outlen.toNat → memRead s (0x300 + i) 1 = .ok ((byteAt s.outPayload i).setWidth 32))
    ∧ (∀ i, i < 132 → s.outlen.toNat ≤ i → memRead s (0x300 + i) 1 = .error (.unspecifiedByte (0x300 + i)))
    ∧ (∀ addr n, (0x00A ≤ addr ∧ addr ≤ 0x00B) ∨ (0x018 ≤ addr ∧ addr ≤ 0x0FF) ∨ (0x188 ≤ addr ∧ addr ≤ 0x1FF)
        ∨ (0x288 ≤ addr ∧ addr ≤ 0x2FF) ∨ (0x384 ≤ addr ∧ addr ≤ 0x3FF) →
        memRead s addr n = .error (.readRefused addr n))

/-- R55: a read answers only for a row at that row's width or for one buffer byte below the buffer's length; the rest
is a model fault. -/
def Obligations.OnlyAdmittedReadsAnswer : Prop :=
  ∀ (s : State) (addr n : Nat),
    let admitted : Prop :=
      (addr, n) ∈ [(0x000, 2), (0x002, 2), (0x004, 1), (0x005, 1), (0x006, 1), (0x007, 1), (0x008, 1), (0x009, 1),
        (0x00C, 4), (0x010, 4), (0x014, 4)]
      ∨ (n = 1 ∧ ((0x100 ≤ addr ∧ addr < 0x100 + min s.txlen.toNat 136)
          ∨ (0x200 ≤ addr ∧ addr < 0x200 + min s.rxlen.toNat 136)
          ∨ (0x300 ≤ addr ∧ addr < 0x300 + min s.outlen.toNat 132)))
    (admitted → ∃ v, memRead s addr n = .ok v)
    ∧ (¬ admitted → memRead s addr n = .error (.readRefused addr n) ∨ memRead s addr n = .error (.unspecifiedByte addr))

/-- R56: a read changes nothing of the block, and the same read again gives the same value. -/
def Obligations.ReadsHaveNoSideEffects : Prop :=
  ∀ (s : State) (addr n : Nat) (rest : List HostAction) (v : Word32),
    s.inbox = .memRead addr n :: .memRead addr n :: rest → memRead s addr n = .ok v →
    ∃ t, step s = .next t
      ∧ t = { s with inbox := .memRead addr n :: rest, events := .readValue addr n v :: s.events }
      ∧ step t = .next { s with
          inbox := rest
          events := .readValue addr n v :: .readValue addr n v :: s.events }

/-- R54, R206: a host write, and a read that R55 does not admit, end the model's run as a model fault. That the run ends
there is the model's reading: log 9. -/
def Obligations.RefusedAccessesAreModelFaults : Prop :=
  (∀ (s : State) (addr n v : Nat) (rest : List HostAction),
    s.inbox = .memWrite addr n v :: rest → step s = .fault (.writeRefused addr n))
  ∧ (∀ (s : State) (addr n : Nat) (rest : List HostAction) (e : Fault),
    s.inbox = .memRead addr n :: rest → memRead s addr n = .error e → step s = .fault e)

/-- R23, R32: the STATUS word field by field, with the values of R201. -/
def Obligations.StatusWordFields : Prop :=
  [Code.ok, .receiving, .frameTooShort, .addressMismatch, .commandMismatch, .checksumInvalid, .magicMismatch,
    .writeRejected, .timeout, .frameTooLong, .addressOutOfRange, .addressUnset, .requestOutstanding, .noRequestPending,
    .illegalOp].map (fun c => c.number.toNat) = List.range 15
  ∧ ∀ s : State,
    s.status.extractLsb' 0 4 = s.code.number
    ∧ s.status.getLsbD 4 = s.pendValid
    ∧ s.status.getLsbD 5 = (s.addr != 0x00#8)
    ∧ s.status.getLsbD 6 = s.rspValid
    ∧ s.status.getLsbD 7 = s.writeOk
    ∧ s.status.getLsbD 8 = s.echoMatch
    ∧ s.status.extractLsb' 9 7 = 0#7

/-! ### Reset (70_reset_and_hazards.md section 1) -/

/-- R34, R240: the registers after reset, the buffers unreadable, and the same by the host's reset from any state. -/
def Obligations.ResetValues : Prop :=
  ∀ (s : State) (rest : List HostAction), s.inbox = .reset :: rest →
    ∃ t, step s = .next t ∧
      ∀ u : State, (u = t ∨ u = State.reset) →
        u.crc = 0xFFFF#16 ∧ u.addr = 0x00#8 ∧ u.status = 0x0000#16
        ∧ u.pendValid = false ∧ u.pendCmd = 0x00#8 ∧ u.pendRsplen = 0x00#8 ∧ u.pendFaddr = 0#32
        ∧ u.txlen = 0#8 ∧ u.rxlen = 0#8 ∧ u.outlen = 0#8
        ∧ u.rspEcho = 0#32 ∧ u.rspStatus = 0#32
        ∧ (∀ addr, 0x100 ≤ addr → ∃ e, memRead u addr 1 = .error e)

/-- R241: what works directly after reset, what the other operations answer, and that SET_ADDR is all the requests
need. -/
def Obligations.OperationsAfterReset : Prop :=
  (∀ i : Instr, isOperation i = true → ∃ t, exec i State.reset = .next t
    ∧ (isRequest i = true → t.code = .addressUnset)
    ∧ (i = .abort → t.code = .noRequestPending)
    ∧ (∀ b, i = .rxByte b → t.code = .noRequestPending))
  ∧ exec .crcInit State.reset = .next (answer .ok State.reset)
  ∧ (∀ b, exec (.crcByte b) State.reset = .next (answer .ok { State.reset with crc := checksum [b] }))
  ∧ (∀ b, ∃ t, execAll [.crcInit, .crcByte b] State.reset = .next t ∧ t.code = .ok ∧ t.crc = checksum [b])
  ∧ (∀ bs, exec (.crcBlock bs) State.reset = .next (answer .ok { State.reset with crc := checksum bs }))
  ∧ (∀ (a c : Byte) (p : List Byte), 1 ≤ a.toNat → a.toNat ≤ 127 → p.length ≤ 132 →
      ∃ t u, exec (.frameEncode a c p) State.reset = .next t ∧ t.code = .ok ∧ t.txFrame = frame a c p
        ∧ exec (.frameDecode a c (frame a c p)) State.reset = .next u ∧ u.code = .ok ∧ u.outPayload = p)
  ∧ (∀ a : Byte, 1 ≤ a.toNat → a.toNat ≤ 127 → ∃ t, exec (.setAddr a) State.reset = .next t
      ∧ ∀ i, isRequest i = true → ∃ u, exec i t = .next u ∧ u.code = .ok)

/-! ### Whole-machine rules -/

/-- The invariant holds at reset (R34). -/
def Obligations.InvariantAtReset : Prop := State.reset.Inv

/-- Every step keeps the invariant: canonical memory inside the buffers, legal ADDR, bounded lengths, flags that say what
R23 says, and an open exchange as R141, R150 and R151 keep it. The canonical form is the model's choice: log 3. -/
def Obligations.StepKeepsInvariant : Prop :=
  ∀ s t : State, s.Inv → step s = .next t → t.Inv

/-- R200: no operation traps. From a state with the invariant, every well-formed instruction gives a next state. -/
def Obligations.NoInstructionTraps : Prop :=
  ∀ (i : Instr) (s : State), s.Inv → i.wellFormed = true → ∃ t, exec i s = .next t

/-- R206: from a state with the invariant, only a refused register-space access stops a run. -/
def Obligations.OnlyRegisterAccessesStop : Prop :=
  ∀ s : State, s.Inv →
    (∀ r, step s ≠ .refused r)
    ∧ ∀ e, step s = .fault e →
      (∃ addr n rest, s.inbox = .memRead addr n :: rest
        ∧ (e = .readRefused addr n ∨ e = .unspecifiedByte addr))
      ∨ (∃ addr n v rest, s.inbox = .memWrite addr n v :: rest ∧ e = .writeRefused addr n)

/-- R200, R205: every operation that ends writes STATUS.CODE exactly once, with its result code, and the history gains
exactly that code. The history is a field of the model's own: log 1. -/
def Obligations.EveryOperationAnswersOnce : Prop :=
  ∀ (i : Instr) (s t : State), isOperation i = true → exec i s = .next t →
    t.events = .result t.code :: s.events ∧ t.inbox = s.inbox

/-- R243, R244, R245: what is refused while a request is outstanding, and the three things that are not. -/
def Obligations.PendingExchangeIsProtected : Prop :=
  ∀ s : State, s.pendValid = true →
    (∀ i : Instr, isOperation i = true → i ≠ .abort → (∀ b, i ≠ .rxByte b) →
      exec i s = .next (answer .requestOutstanding s))
    ∧ exec .abort s = .next (answer .timeout { s with pendValid := false })
    ∧ (∀ b t, exec (.rxByte b) s = .next t → t.code ≠ .requestOutstanding)
    ∧ (∀ m e, decode (.message m) = .error e → runTransfer (.message m) s = .next (answer .illegalOp s))

/-- R22: ADDR is written only by SET_ADDR. -/
def Obligations.OnlySetAddrWritesAddr : Prop :=
  ∀ (i : Instr) (s t : State), exec i s = .next t → (∀ a, i ≠ .setAddr a) → t.addr = s.addr

/-- R24: PEND.valid is set only by a request, and its other fields change with it only. -/
def Obligations.OnlyRequestsOpenExchanges : Prop :=
  ∀ (i : Instr) (s t : State), exec i s = .next t → isRequest i = false →
    (t.pendValid = true → s.pendValid = true)
    ∧ t.pendCmd = s.pendCmd ∧ t.pendRsplen = s.pendRsplen ∧ t.pendFaddr = s.pendFaddr

/-- R25: TXBUF and TXLEN are written only by FRAME_ENCODE and the requests. -/
def Obligations.OnlyEncodersWriteTxbuf : Prop :=
  ∀ (i : Instr) (s t : State), exec i s = .next t → isRequest i = false →
    (∀ a c p, i ≠ .frameEncode a c p) →
    t.txlen = s.txlen ∧ ∀ a, a < rxBase → Memory.read t.mem a = Memory.read s.mem a

/-- R28, R29: RSP_ECHO and RSP_STATUS are written only by a completion that passes the frame checks: RSP_STATUS only
WRITE_CHUNK's, RSP_ECHO never BOOT_EXIT's. A byte that changes one of them is the last byte of an open exchange whose
frame passes; a response row is a sequence of such bytes (ResponseFramesAreFedByteByByte, log 7). -/
def Obligations.OnlyCompletionWritesResponseWords : Prop :=
  ∀ (i : Instr) (s t : State), exec i s = .next t →
    (isReception i = false → t.rspEcho = s.rspEcho ∧ t.rspStatus = s.rspStatus)
    ∧ (s.pendValid = false → t.rspEcho = s.rspEcho ∧ t.rspStatus = s.rspStatus)
    ∧ (s.pendCmd = 102#8 → t.rspEcho = s.rspEcho)
    ∧ (s.pendCmd ≠ 103#8 → t.rspStatus = s.rspStatus)
    ∧ (t.rspValid = false → t.rspEcho = s.rspEcho ∧ t.rspStatus = s.rspStatus)
    ∧ (∀ b, i = .rxByte b → s.Inv → (t.rspEcho ≠ s.rspEcho ∨ t.rspStatus ≠ s.rspStatus) →
        s.pendValid = true ∧ s.rxlen.toNat + 1 = s.pendRsplen.toNat ∧ t.rspValid = true
        ∧ ∃ p, unframe (s.rxBytes ++ [b]) s.addr s.pendCmd = .ok p)

/-- R79 with R106, R107: CRC_SEQ leaves the same CRC as CRC_BLOCK of the same bytes. -/
def Obligations.CrcSequenceEqualsBlock : Prop :=
  ∀ (bs : List Byte) (s t u : State), s.pendValid = false →
    execAll (.crcInit :: bs.map .crcByte) s = .next t → exec (.crcBlock bs) s = .next u →
    t.crc = u.crc ∧ t.crc = checksum bs

/-- R78, R79: operands that fit assemble to their operation, the pseudo-operations expand as the table says, and an
operand that does not fit its field, or a byte string of a wrong length, is an assembly error. Two things are the model's
choice and no rule's: that CRC_ASCII refuses a text with a character of 128 or more (log 13), and the names of the errors,
with which one is named where both a byte and the length are wrong: R78 says only that it is an assembly error (log 14).
-/
def Obligations.AssemblerExpandsAndRejects : Prop :=
  let bytes (bs : List Byte) : AsmOperand := .bytes (bs.map BitVec.toNat)
  let fits (n : Nat) : Prop := n < 2 ^ 8
  -- what fits
  assembleOp "CRC_INIT".toList [] = .ok [.crcInit]
  ∧ assembleOp "ABORT".toList [] = .ok [.abort]
  ∧ assembleOp "REQ_BOOT_ENTER".toList [] = .ok [.reqBootEnter]
  ∧ assembleOp "REQ_BOOT_EXIT".toList [] = .ok [.reqBootExit]
  ∧ (∀ b : Byte, assembleOp "CRC_BYTE".toList [.number b.toNat] = .ok [.crcByte b]
      ∧ assembleOp "SET_ADDR".toList [.number b.toNat] = .ok [.setAddr b]
      ∧ assembleOp "RX_BYTE".toList [.number b.toNat] = .ok [.rxByte b])
  ∧ (∀ fa : Word32, assembleOp "REQ_READ_CHUNK".toList [.number fa.toNat] = .ok [.reqReadChunk fa]
      ∧ ∀ d : List Byte, d.length = 128 →
        assembleOp "REQ_WRITE_CHUNK".toList [.number fa.toNat, bytes d] = .ok [.reqWriteChunk fa d])
  ∧ (∀ bs : List Byte, bs.length ≤ 65535 → assembleOp "CRC_BLOCK".toList [bytes bs] = .ok [.crcBlock bs])
  ∧ (∀ (x y : Byte) (bs : List Byte), bs.length ≤ 255 →
      assembleOp "FRAME_ENCODE".toList [.number x.toNat, .number y.toNat, bytes bs] = .ok [.frameEncode x y bs]
      ∧ assembleOp "FRAME_DECODE".toList [.number x.toNat, .number y.toNat, bytes bs] = .ok [.frameDecode x y bs])
  -- the pseudo-operations
  ∧ (∀ f : List Byte, assembleOp "RX_FRAME".toList [bytes f] = .ok (f.map .rxByte))
  ∧ (∀ f : List Byte, assembleOp "CRC_SEQ".toList [bytes f] = .ok (.crcInit :: f.map .crcByte))
  ∧ (∀ cs : List Char, (∀ c ∈ cs, c.toNat < 128) → cs.length ≤ 65535 →
      assembleOp "CRC_ASCII".toList [.text cs] = .ok [.crcBlock (cs.map fun c => BitVec.ofNat 8 c.toNat)])
  -- what does not fit
  ∧ (∀ n, ¬ fits n → ∀ m ∈ ["CRC_BYTE", "SET_ADDR", "RX_BYTE"],
      assembleOp m.toList [.number n] = .error .operandDoesNotFit)
  ∧ (∀ n, 2 ^ 32 ≤ n → assembleOp "REQ_READ_CHUNK".toList [.number n] = .error .operandDoesNotFit
      ∧ ∀ d, assembleOp "REQ_WRITE_CHUNK".toList [.number n, .bytes d] = .error .operandDoesNotFit)
  ∧ (∀ x y bs, ¬ fits x ∨ ¬ fits y ∨ (∃ n ∈ bs, ¬ fits n) → ∀ m ∈ ["FRAME_ENCODE", "FRAME_DECODE"],
      assembleOp m.toList [.number x, .number y, .bytes bs] = .error .operandDoesNotFit)
  ∧ (∀ bs : List Nat, (∃ n ∈ bs, ¬ fits n) → ∀ m ∈ ["CRC_BLOCK", "RX_FRAME", "CRC_SEQ"],
      assembleOp m.toList [.bytes bs] = .error .operandDoesNotFit)
  ∧ (∀ (fa : Nat) (d : List Nat), fa < 2 ^ 32 →
      (d.length ≠ 128 → assembleOp "REQ_WRITE_CHUNK".toList [.number fa, .bytes d] = .error .byteStringLength)
      ∧ (d.length = 128 → (∃ n ∈ d, ¬ fits n) →
        assembleOp "REQ_WRITE_CHUNK".toList [.number fa, .bytes d] = .error .operandDoesNotFit))
  ∧ (∀ (x y : Byte) (bs : List Byte), 255 < bs.length → ∀ m ∈ ["FRAME_ENCODE", "FRAME_DECODE"],
      assembleOp m.toList [.number x.toNat, .number y.toNat, bytes bs] = .error .byteStringLength)
  ∧ (∀ bs : List Byte, 65535 < bs.length → assembleOp "CRC_BLOCK".toList [bytes bs] = .error .byteStringLength)
  ∧ (∀ cs : List Char, (∃ c ∈ cs, 128 ≤ c.toNat) →
      assembleOp "CRC_ASCII".toList [.text cs] = .error .operandDoesNotFit)
  ∧ (∀ cs : List Char, (∀ c ∈ cs, c.toNat < 128) → 65535 < cs.length →
      assembleOp "CRC_ASCII".toList [.text cs] = .error .byteStringLength)
end

