-- ==== Sys2Proof/Laws/Access.lean ====
section
/-! SUPPORT. The laws of register reads. -/

namespace Sys2Proof.Machine

/-- The buffer of an offset, by ranges (R53). -/
theorem bufferAt_eq (s : State) (addr : Nat) :
    bufferAt s addr =
      if 0x100 ≤ addr ∧ addr < 0x188 then some (0x100, 136, s.txlen.toNat)
      else if 0x200 ≤ addr ∧ addr < 0x288 then some (0x200, 136, s.rxlen.toNat)
      else if 0x300 ≤ addr ∧ addr < 0x384 then some (0x300, 132, s.outlen.toNat)
      else none := by
  simp only [bufferAt, bufferMap, txBase, rxBase, outBase, Config.maxFrame, Config.maxPayload, List.find?_cons,
    List.find?_nil, Nat.reduceAdd]
  repeat' split
  all_goals simp_all

/-- A read at no row's offset and width is a buffer access. -/
theorem memRead_of_no_row {s : State} {addr n : Nat}
    (h : (registerMap s).find? (fun r => r.1 == addr && r.2.1 == n) = none) :
    memRead s addr n = match bufferAt s addr with
      | none => .error (.readRefused addr n)
      | some r =>
        if n ≠ 1 then .error (.readRefused addr n)
        else if r.2.2 ≤ addr - r.1 then .error (.unspecifiedByte addr)
        else .ok ((Memory.read s.mem addr).setWidth 32) := by
  cases hb : bufferAt s addr <;> simp [memRead, h, hb]

/-- No row lies above offset 0x014. -/
theorem registerMap_above {s : State} {addr : Nat} (n : Nat) (h : 0x014 < addr) :
    (registerMap s).find? (fun r => r.1 == addr && r.2.1 == n) = none := by
  simp only [registerMap, List.find?_eq_none, List.mem_cons, List.not_mem_nil, or_false]
  rintro x hx
  rcases hx with rfl | rfl | rfl | rfl | rfl | rfl | rfl | rfl | rfl | rfl | rfl <;> simp <;> omega

end Sys2Proof.Machine
end

