-- ==== Sys2Proof/Laws/Bytes.lean ====
section
/-! SUPPORT. Byte order and frame layout: the byte helpers invert each other, lengths, the parts of a frame. -/

namespace Sys2Proof.Machine

/-! ### le16, le32 and their inverses -/

@[simp] theorem le16_length (v : Word16) : (le16 v).length = 2 := rfl

@[simp] theorem le32_length (v : Word32) : (le32 v).length = 4 := rfl

@[simp] theorem u16OfBytes_extract (v : Word16) :
    u16OfBytes (v.extractLsb' 0 8) (v.extractLsb' 8 8) = v := by
  apply BitVec.eq_of_getLsbD_eq
  intro i hi
  simp only [u16OfBytes, BitVec.getLsbD_or, BitVec.getLsbD_setWidth, BitVec.getLsbD_shiftLeft,
    BitVec.getLsbD_extractLsb', hi]
  by_cases h : i < 8
  · simp [h]
  · have : i - 8 < 8 := by omega
    have h2 : 8 + (i - 8) = i := by omega
    have h3 : i - 8 < 16 := by omega
    simp [h, this, h2, h3]

theorem u16OfBytes_low (b0 b1 : Byte) : (u16OfBytes b0 b1).extractLsb' 0 8 = b0 := by
  ext i hi
  have h : i < 16 := by omega
  simp [u16OfBytes, hi, h]

theorem u16OfBytes_high (b0 b1 : Byte) : (u16OfBytes b0 b1).extractLsb' 8 8 = b1 := by
  ext i hi
  have h : 8 + i < 16 := by omega
  simp [u16OfBytes, hi, h]

@[simp] theorem le16_u16OfBytes (b0 b1 : Byte) : le16 (u16OfBytes b0 b1) = [b0, b1] := by
  simp [le16, u16OfBytes_low, u16OfBytes_high]

@[simp] theorem u32OfBytes_extract (v : Word32) :
    u32OfBytes (v.extractLsb' 0 8) (v.extractLsb' 8 8) (v.extractLsb' 16 8) (v.extractLsb' 24 8) = v := by
  apply BitVec.eq_of_getLsbD_eq
  intro i hi
  simp only [u32OfBytes, BitVec.getLsbD_or, BitVec.getLsbD_setWidth, BitVec.getLsbD_shiftLeft,
    BitVec.getLsbD_extractLsb', hi]
  by_cases h1 : i < 8
  · have : i < 16 := by omega
    have h3 : i < 24 := by omega
    simp [h1, this, h3]
  by_cases h2 : i < 16
  · have ha : i - 8 < 8 := by omega
    have hb : 8 + (i - 8) = i := by omega
    have hd : i < 24 := by omega
    have hc : i - 8 < 32 := by omega
    simp [h1, h2, ha, hb, hc, hd]
  by_cases h3 : i < 24
  · have ha : ¬ i - 8 < 8 := by omega
    have hb : 16 + (i - 16) = i := by omega
    have hc : i - 16 < 8 := by omega
    have hd : i - 16 < 32 := by omega
    simp [h1, h2, h3, ha, hb, hc, hd]
  · have ha : ¬ i - 8 < 8 := by omega
    have hb : 24 + (i - 24) = i := by omega
    have hc : ¬ i - 16 < 8 := by omega
    have he : i - 24 < 8 := by omega
    have hd : i - 24 < 32 := by omega
    simp [h1, h2, h3, ha, hb, hc, hd, he]

theorem le32_u32OfBytes (b0 b1 b2 b3 : Byte) : le32 (u32OfBytes b0 b1 b2 b3) = [b0, b1, b2, b3] := by
  have e0 : (u32OfBytes b0 b1 b2 b3).extractLsb' 0 8 = b0 := by
    ext i hi
    have h : i < 32 := by omega
    have h2 : i < 16 := by omega
    have h3 : i < 24 := by omega
    simp [u32OfBytes, hi, h, h2, h3]
  have e1 : (u32OfBytes b0 b1 b2 b3).extractLsb' 8 8 = b1 := by
    ext i hi
    have h2 : 8 + i < 16 := by omega
    have h3 : 8 + i < 24 := by omega
    have h4 : 8 + i < 32 := by omega
    simp [u32OfBytes, hi, h2, h3, h4]
  have e2 : (u32OfBytes b0 b1 b2 b3).extractLsb' 16 8 = b2 := by
    ext i hi
    have h0 := BitVec.getLsbD_of_ge b0 (16 + i) (by omega)
    have h3 : 16 + i < 24 := by omega
    have h4 : 16 + i < 32 := by omega
    have h5 : 16 + i - 8 = 8 + i := by omega
    simp [u32OfBytes, hi, h0, h3, h4, h5]
  have e3 : (u32OfBytes b0 b1 b2 b3).extractLsb' 24 8 = b3 := by
    ext i hi
    have h0 := BitVec.getLsbD_of_ge b0 (24 + i) (by omega)
    have h1 := BitVec.getLsbD_of_ge b1 (16 + i) (by omega)
    have h4 : 24 + i < 32 := by omega
    have h5 : 24 + i - 8 = 16 + i := by omega
    have h6 : 24 + i - 16 = 8 + i := by omega
    simp [u32OfBytes, hi, h0, h1, h4, h5, h6]
  simp [le32, e0, e1, e2, e3]

/-- A 32-bit field at the head of a sequence reads back. -/
@[simp] theorem u32le_le32_append (v : Word32) (p : List Byte) : u32le (le32 v ++ p) 0 = v := by
  simp [u32le, le32, byteAt]

theorem u32le_le32_append_four (u v : Word32) (p : List Byte) : u32le (le32 u ++ (le32 v ++ p)) 4 = v := by
  simp [u32le, le32, byteAt]

/-! ### The parts of a frame -/

@[simp] theorem rawFrame_length (a c : Byte) (p : List Byte) (crc : Word16) :
    (rawFrame a c p crc).length = p.length + 4 := by
  simp [rawFrame]

@[simp] theorem byteAt_rawFrame_zero (a c : Byte) (p : List Byte) (crc : Word16) :
    byteAt (rawFrame a c p crc) 0 = a := rfl

@[simp] theorem byteAt_rawFrame_one (a c : Byte) (p : List Byte) (crc : Word16) :
    byteAt (rawFrame a c p crc) 1 = c := rfl

/-- The payload slice of R121 gives back what R120 put between the command and the CRC. -/
@[simp] theorem payloadOf_rawFrame (a c : Byte) (p : List Byte) (crc : Word16) :
    payloadOf (rawFrame a c p crc) = p := by
  simp [payloadOf, slice, rawFrame]

theorem payloadOf_length (f : List Byte) : (payloadOf f).length = f.length - 4 := by
  simp only [payloadOf, slice, List.length_take, List.length_drop]; omega

end Sys2Proof.Machine
end

