-- ==== Sys2Proof/Laws/Crc.lean ====
section
/-! SUPPORT. The laws of the checksum: one shift and one byte are linear over exclusive or, and a shift loses nothing. -/

namespace Sys2Proof.Machine

theorem crcShift_xor (a b : Word16) : crcShift (a ^^^ b) = crcShift a ^^^ crcShift b := by
  have swap (x y z : Word16) : x ^^^ (y ^^^ z) = y ^^^ (x ^^^ z) := by
    rw [← BitVec.xor_assoc, BitVec.xor_comm x y, BitVec.xor_assoc]
  unfold crcShift
  rw [BitVec.getLsbD_xor]
  cases ha : a.getLsbD 0 <;> cases hb : b.getLsbD 0 <;>
    simp [BitVec.ushiftRight_xor_distrib, BitVec.xor_assoc, swap _ Config.crcPoly]
  ac_rfl

theorem crcShifts_xor (n : Nat) (a b : Word16) : crcShifts n (a ^^^ b) = crcShifts n a ^^^ crcShifts n b := by
  induction n generalizing a b with
  | zero => rfl
  | succ n ih => simp [crcShifts, crcShift_xor, ih]

@[simp] theorem crcShifts_zero (n : Nat) : crcShifts n 0#16 = 0#16 := by
  induction n with
  | zero => rfl
  | succ n ih => rw [crcShifts, show crcShift 0#16 = 0#16 by decide, ih]

theorem crcShifts_add (m n : Nat) (c : Word16) : crcShifts (m + n) c = crcShifts m (crcShifts n c) := by
  induction n generalizing c with
  | zero => rfl
  | succ n ih => exact ih (crcShift c)

/-- Shifts that meet only zero bits are plain shifts. -/
theorem crcShifts_low_zero (n : Nat) (c : Word16) (h : ∀ i, i < n → c.getLsbD i = false) :
    crcShifts n c = c >>> n := by
  induction n generalizing c with
  | zero => simp [crcShifts]
  | succ n ih =>
    have h0 : crcShift c = c >>> 1 := by unfold crcShift; rw [h 0 (by omega)]; rfl
    rw [crcShifts, h0, ih, ← BitVec.shiftRight_add, Nat.add_comm]
    intro i hi
    rw [BitVec.getLsbD_ushiftRight]
    exact h _ (by omega)

/-- A shift loses nothing: only zero shifts to zero. -/
theorem crcShift_eq_zero {c : Word16} (h : crcShift c = 0#16) : c = 0#16 := by
  unfold crcShift at h
  by_cases h0 : c.getLsbD 0 = true
  · rw [if_pos h0] at h
    have := congrArg (fun v : Word16 => v.getLsbD 15) h
    simp [Config.crcPoly] at this
  · rw [if_neg h0] at h
    apply BitVec.eq_of_getLsbD_eq
    intro i hi
    cases i with
    | zero => simpa using h0
    | succ i => simpa [BitVec.getLsbD_ushiftRight, Nat.add_comm] using congrArg (fun v : Word16 => v.getLsbD i) h

theorem crcShifts_eq_zero {n : Nat} {c : Word16} (h : crcShifts n c = 0#16) : c = 0#16 := by
  induction n generalizing c with
  | zero => exact h
  | succ n ih => exact crcShift_eq_zero (ih h)

theorem checksum_snoc (s : List Byte) (b : Byte) : checksum (s ++ [b]) = crcStep (checksum s) b := by
  simp [checksum]

/-- Feeding the low byte of the CRC itself shifts the high byte down. -/
theorem crcStep_low_byte (c : Word16) : crcStep c (c.extractLsb' 0 8) = c >>> 8 := by
  unfold crcStep
  rw [crcShifts_low_zero]
  · apply BitVec.eq_of_getLsbD_eq
    intro i hi
    simp
  · intro i hi
    have : i < 16 := by omega
    simp [hi, this]

end Sys2Proof.Machine
end

