-- ==== Sys2Proof/Laws/Memory.lean ====
section
/-! SUPPORT. The laws of memory: read after write, the canonical form, runs of bytes. -/

namespace Sys2Proof.Machine

/-! ### One byte -/

theorem Memory.read_filter_other (m : Memory) (a b : Nat) (h : b ≠ a) :
    Memory.read (m.filter fun c => c.1 != a) b = Memory.read m b := by
  induction m with
  | nil => rfl
  | cons c rest ih =>
    by_cases hc : c.1 = a
    · have : c.1 ≠ b := by omega
      simp [Memory.read, hc, ih, Ne.symm h]
    · simp [Memory.read, hc, ih]

theorem Memory.read_filter_same (m : Memory) (a : Nat) :
    Memory.read (m.filter fun c => c.1 != a) a = Memory.unlisted := by
  induction m with
  | nil => rfl
  | cons c rest ih =>
    by_cases hc : c.1 = a <;> simp [Memory.read, hc, ih]

theorem Memory.read_place_other (m : Memory) (a b : Nat) (v : Byte) (h : b ≠ a) :
    Memory.read (Memory.place a v m) b = Memory.read m b := by
  induction m with
  | nil => simp [Memory.place, Memory.read, Ne.symm h]
  | cons c rest ih =>
    by_cases hc : a < c.1 <;> simp [Memory.place, Memory.read, hc, ih, Ne.symm h]

theorem Memory.read_place_same (m : Memory) (a : Nat) (v : Byte) (h : ∀ c ∈ m, c.1 ≠ a) :
    Memory.read (Memory.place a v m) a = v := by
  induction m with
  | nil => simp [Memory.place, Memory.read]
  | cons c rest ih =>
    have hc := h c (by simp)
    have ih := ih fun d hd => h d (by simp [hd])
    by_cases h1 : a < c.1 <;> simp [Memory.place, Memory.read, h1, ih, hc]

/-- A read of the offset just written gives the byte written. -/
@[simp] theorem Memory.read_write_same (m : Memory) (a : Nat) (v : Byte) :
    Memory.read (Memory.write m a v) a = v := by
  unfold Memory.write
  by_cases hv : v = Memory.unlisted
  · simp only [hv, if_true]; exact Memory.read_filter_same m a
  · simp only [hv, if_false]
    exact Memory.read_place_same _ a v (by simp)

/-- A write leaves every other offset alone. -/
theorem Memory.read_write_other (m : Memory) (a b : Nat) (v : Byte) (h : b ≠ a) :
    Memory.read (Memory.write m a v) b = Memory.read m b := by
  unfold Memory.write
  by_cases hv : v = Memory.unlisted
  · simp only [hv, if_true]; exact Memory.read_filter_other m a b h
  · simp only [hv, if_false]
    rw [Memory.read_place_other _ a b v h, Memory.read_filter_other m a b h]

/-! ### The canonical form -/

/-- The canonical form said with standard words. -/
theorem Memory.wf_iff (m : Memory) :
    Memory.wf m = true ↔ m.Pairwise (fun c d => c.1 < d.1) ∧ ∀ c ∈ m, c.2 ≠ Memory.unlisted := by
  induction m with
  | nil => simp [Memory.wf]
  | cons c rest ih =>
    cases rest with
    | nil => simp [Memory.wf]
    | cons d rest =>
      simp only [Memory.wf, Bool.and_eq_true, bne_iff_ne, decide_eq_true_eq, ih, List.pairwise_cons,
        List.mem_cons, forall_eq_or_imp]
      constructor
      · rintro ⟨⟨h1, h2⟩, ⟨h3, h4⟩, h5, h6⟩
        exact ⟨⟨⟨h2, fun e he => Nat.lt_trans h2 (h3 e he)⟩, h3, h4⟩, h1, h5, h6⟩
      · rintro ⟨⟨⟨h2, -⟩, h3, h4⟩, h1, h5, h6⟩
        exact ⟨⟨h1, h2⟩, ⟨h3, h4⟩, h5, h6⟩

theorem Memory.mem_place {m : Memory} {a : Nat} {v : Byte} {c : Host.Cell} :
    c ∈ Memory.place a v m ↔ c = (a, v) ∨ c ∈ m := by
  induction m with
  | nil => simp [Memory.place]
  | cons d rest ih =>
    by_cases h : a < d.1
    · simp [Memory.place, h]
    · simp only [Memory.place, h, if_false, List.mem_cons, ih]; tauto

theorem Memory.place_pairwise {m : Memory} {a : Nat} {v : Byte} (h : ∀ c ∈ m, c.1 ≠ a)
    (hm : m.Pairwise fun c d => c.1 < d.1) : (Memory.place a v m).Pairwise fun c d => c.1 < d.1 := by
  induction m with
  | nil => simp [Memory.place]
  | cons d rest ih =>
    obtain ⟨hd, hr⟩ := List.pairwise_cons.1 hm
    by_cases ha : a < d.1
    · simp only [Memory.place, ha, if_true, List.pairwise_cons]
      refine ⟨?_, hd, hr⟩
      intro e he
      rcases List.mem_cons.1 he with rfl | he
      · exact ha
      · exact Nat.lt_trans ha (hd e he)
    · have hne := h d (by simp)
      simp only [Memory.place, ha, if_false, List.pairwise_cons]
      refine ⟨?_, ih (fun c hc => h c (by simp [hc])) hr⟩
      intro e he
      rcases Memory.mem_place.1 he with rfl | he
      · show d.1 < a
        omega
      · exact hd e he

/-- A write keeps the canonical form. -/
theorem Memory.wf_write {m : Memory} (a : Nat) (v : Byte) (h : Memory.wf m = true) :
    Memory.wf (Memory.write m a v) = true := by
  rw [Memory.wf_iff] at h ⊢
  have hf := h.1.filter fun c => c.1 != a
  unfold Memory.write
  by_cases hv : v = Memory.unlisted
  · simp only [hv, if_true]
    exact ⟨hf, fun c hc => h.2 c (List.mem_filter.1 hc).1⟩
  · simp only [hv, if_false]
    refine ⟨Memory.place_pairwise (by simp) hf, fun c hc => ?_⟩
    rcases Memory.mem_place.1 hc with rfl | hc
    · exact hv
    · exact h.2 c (List.mem_filter.1 hc).1

/-- A cell of a written memory is the one written or an old one. -/
theorem Memory.mem_write {m : Memory} {a : Nat} {v : Byte} {c : Host.Cell} (h : c ∈ Memory.write m a v) :
    c.1 = a ∨ c ∈ m := by
  unfold Memory.write at h
  by_cases hv : v = Memory.unlisted
  · simp only [hv, if_true] at h
    exact .inr (List.mem_filter.1 h).1
  · simp only [hv, if_false] at h
    rcases Memory.mem_place.1 h with rfl | hc
    · exact .inl rfl
    · exact .inr (List.mem_filter.1 hc).1

/-- The memory of the reset state is in its canonical form. -/
theorem State.reset_mem_wf : Memory.wf State.reset.mem = true := rfl

/-! ### Runs of bytes -/

theorem Memory.wf_writeAll {m : Memory} (base : Nat) (bs : List Byte) (h : Memory.wf m = true) :
    Memory.wf (Memory.writeAll m base bs) = true := by
  induction bs generalizing m base with
  | nil => exact h
  | cons b rest ih => exact ih (base + 1) (Memory.wf_write base b h)

theorem Memory.mem_writeAll {m : Memory} {base : Nat} {bs : List Byte} {c : Host.Cell}
    (h : c ∈ Memory.writeAll m base bs) : (base ≤ c.1 ∧ c.1 < base + bs.length) ∨ c ∈ m := by
  induction bs generalizing m base with
  | nil => exact .inr h
  | cons b rest ih =>
    rcases ih h with h1 | h1
    · left; simp only [List.length_cons]; omega
    · rcases Memory.mem_write h1 with h2 | h2
      · left; simp only [List.length_cons]; omega
      · exact .inr h2

/-- What each offset reads as after a run of bytes is stored. -/
theorem Memory.read_writeAll (m : Memory) (base : Nat) (bs : List Byte) (a : Nat) :
    Memory.read (Memory.writeAll m base bs) a
      = if base ≤ a ∧ a < base + bs.length then byteAt bs (a - base) else Memory.read m a := by
  induction bs generalizing m base with
  | nil =>
    have : ¬ (base ≤ a ∧ a < base) := by omega
    simp [Memory.writeAll, this]
  | cons b rest ih =>
    simp only [Memory.writeAll, ih, List.length_cons]
    by_cases h1 : base = a
    · subst h1
      have h2 : ¬ (base + 1 ≤ base ∧ base < base + 1 + rest.length) := by omega
      simp [byteAt]
    · by_cases h2 : base + 1 ≤ a ∧ a < base + 1 + rest.length
      · have h3 : base ≤ a ∧ a < base + (rest.length + 1) := by omega
        have h4 : a - base = a - (base + 1) + 1 := by omega
        simp [h2, h3, h4, byteAt]
      · have h3 : ¬ (base ≤ a ∧ a < base + (rest.length + 1)) := by omega
        rw [if_neg h2, if_neg h3, Memory.read_write_other _ _ _ _ (Ne.symm h1)]

theorem Memory.read_writeAll_outside (m : Memory) (base : Nat) (bs : List Byte) (a : Nat)
    (h : a < base ∨ base + bs.length ≤ a) : Memory.read (Memory.writeAll m base bs) a = Memory.read m a := by
  rw [Memory.read_writeAll, if_neg (by omega)]

@[simp] theorem Memory.readAll_length (m : Memory) (base n : Nat) : (Memory.readAll m base n).length = n := by
  induction n generalizing base with
  | zero => rfl
  | succ n ih => simp [Memory.readAll, ih]

/-- Two memories that agree on a run give the same run. -/
theorem Memory.readAll_congr {m m' : Memory} {base n : Nat}
    (h : ∀ i, i < n → Memory.read m (base + i) = Memory.read m' (base + i)) :
    Memory.readAll m base n = Memory.readAll m' base n := by
  induction n generalizing base with
  | zero => rfl
  | succ n ih =>
    have h0 := h 0 (by omega)
    have ih := ih (base := base + 1) fun i hi => by
      have := h (i + 1) (by omega)
      simpa [Nat.add_assoc, Nat.add_comm 1 i] using this
    simp only [Nat.add_zero] at h0
    simp [Memory.readAll, h0, ih]

/-- The last byte of a run. -/
theorem Memory.readAll_snoc (m : Memory) (base n : Nat) :
    Memory.readAll m base (n + 1) = Memory.readAll m base n ++ [Memory.read m (base + n)] := by
  induction n generalizing base with
  | zero => simp [Memory.readAll]
  | succ n ih =>
    rw [Memory.readAll, ih (base + 1)]
    simp [Memory.readAll, Nat.add_assoc, Nat.add_comm 1 n]

/-- The run just stored reads back. -/
@[simp] theorem Memory.readAll_writeAll_same (m : Memory) (base : Nat) (bs : List Byte) :
    Memory.readAll (Memory.writeAll m base bs) base bs.length = bs := by
  induction bs generalizing m base with
  | nil => rfl
  | cons b rest ih =>
    simp only [List.length_cons, Memory.readAll, Memory.writeAll, ih]
    rw [Memory.read_writeAll_outside _ _ _ _ (by omega), Memory.read_write_same]

/-- A run elsewhere is left alone. -/
theorem Memory.readAll_writeAll_other (m : Memory) (base : Nat) (bs : List Byte) (b n : Nat)
    (h : b + n ≤ base ∨ base + bs.length ≤ b) :
    Memory.readAll (Memory.writeAll m base bs) b n = Memory.readAll m b n :=
  Memory.readAll_congr fun i hi => Memory.read_writeAll_outside _ _ _ _ (by omega)

theorem Memory.readAll_write_other (m : Memory) (a : Nat) (v : Byte) (b n : Nat) (h : a < b ∨ b + n ≤ a) :
    Memory.readAll (Memory.write m a v) b n = Memory.readAll m b n :=
  Memory.readAll_congr fun i hi => Memory.read_write_other _ _ _ _ (by omega)

/-- A byte of a run, by its place. -/
theorem Memory.byteAt_readAll (m : Memory) (base n i : Nat) (h : i < n) :
    byteAt (Memory.readAll m base n) i = Memory.read m (base + i) := by
  induction n generalizing base i with
  | zero => omega
  | succ n ih =>
    cases i with
    | zero => simp [Memory.readAll, byteAt]
    | succ i =>
      have := ih (base + 1) i (by omega)
      simpa [Memory.readAll, byteAt, Nat.add_assoc, Nat.add_comm 1 i] using this

end Sys2Proof.Machine
end

