-- ==== Sys2Proof/Laws/State.lean ====
section
/-! SUPPORT. What each update of a state does to each field: one lemma per field per update. -/

namespace Sys2Proof.Machine

variable (s : State)

/-! ### finish -/

@[simp] theorem State.finish_crc (c : Code) : (s.finish c).crc = s.crc := rfl
@[simp] theorem State.finish_addr (c : Code) : (s.finish c).addr = s.addr := rfl
@[simp] theorem State.finish_code (c : Code) : (s.finish c).code = c := rfl
@[simp] theorem State.finish_rspValid (c : Code) : (s.finish c).rspValid = s.rspValid := rfl
@[simp] theorem State.finish_writeOk (c : Code) : (s.finish c).writeOk = s.writeOk := rfl
@[simp] theorem State.finish_echoMatch (c : Code) : (s.finish c).echoMatch = s.echoMatch := rfl
@[simp] theorem State.finish_pendValid (c : Code) : (s.finish c).pendValid = s.pendValid := rfl
@[simp] theorem State.finish_pendCmd (c : Code) : (s.finish c).pendCmd = s.pendCmd := rfl
@[simp] theorem State.finish_pendRsplen (c : Code) : (s.finish c).pendRsplen = s.pendRsplen := rfl
@[simp] theorem State.finish_pendFaddr (c : Code) : (s.finish c).pendFaddr = s.pendFaddr := rfl
@[simp] theorem State.finish_txlen (c : Code) : (s.finish c).txlen = s.txlen := rfl
@[simp] theorem State.finish_rxlen (c : Code) : (s.finish c).rxlen = s.rxlen := rfl
@[simp] theorem State.finish_outlen (c : Code) : (s.finish c).outlen = s.outlen := rfl
@[simp] theorem State.finish_rspEcho (c : Code) : (s.finish c).rspEcho = s.rspEcho := rfl
@[simp] theorem State.finish_rspStatus (c : Code) : (s.finish c).rspStatus = s.rspStatus := rfl
@[simp] theorem State.finish_mem (c : Code) : (s.finish c).mem = s.mem := rfl
@[simp] theorem State.finish_inbox (c : Code) : (s.finish c).inbox = s.inbox := rfl
@[simp] theorem State.finish_events (c : Code) : (s.finish c).events = .result c :: s.events := rfl

/-! ### record -/

@[simp] theorem State.record_crc (e : Event) : (s.record e).crc = s.crc := rfl
@[simp] theorem State.record_addr (e : Event) : (s.record e).addr = s.addr := rfl
@[simp] theorem State.record_code (e : Event) : (s.record e).code = s.code := rfl
@[simp] theorem State.record_rspValid (e : Event) : (s.record e).rspValid = s.rspValid := rfl
@[simp] theorem State.record_writeOk (e : Event) : (s.record e).writeOk = s.writeOk := rfl
@[simp] theorem State.record_echoMatch (e : Event) : (s.record e).echoMatch = s.echoMatch := rfl
@[simp] theorem State.record_pendValid (e : Event) : (s.record e).pendValid = s.pendValid := rfl
@[simp] theorem State.record_pendCmd (e : Event) : (s.record e).pendCmd = s.pendCmd := rfl
@[simp] theorem State.record_pendRsplen (e : Event) : (s.record e).pendRsplen = s.pendRsplen := rfl
@[simp] theorem State.record_pendFaddr (e : Event) : (s.record e).pendFaddr = s.pendFaddr := rfl
@[simp] theorem State.record_txlen (e : Event) : (s.record e).txlen = s.txlen := rfl
@[simp] theorem State.record_rxlen (e : Event) : (s.record e).rxlen = s.rxlen := rfl
@[simp] theorem State.record_outlen (e : Event) : (s.record e).outlen = s.outlen := rfl
@[simp] theorem State.record_rspEcho (e : Event) : (s.record e).rspEcho = s.rspEcho := rfl
@[simp] theorem State.record_rspStatus (e : Event) : (s.record e).rspStatus = s.rspStatus := rfl
@[simp] theorem State.record_mem (e : Event) : (s.record e).mem = s.mem := rfl
@[simp] theorem State.record_inbox (e : Event) : (s.record e).inbox = s.inbox := rfl
@[simp] theorem State.record_events (e : Event) : (s.record e).events = e :: s.events := rfl

/-! ### clearOutputs -/

@[simp] theorem State.clearOutputs_crc : (s.clearOutputs).crc = s.crc := rfl
@[simp] theorem State.clearOutputs_addr : (s.clearOutputs).addr = s.addr := rfl
@[simp] theorem State.clearOutputs_code : (s.clearOutputs).code = s.code := rfl
@[simp] theorem State.clearOutputs_rspValid : (s.clearOutputs).rspValid = false := rfl
@[simp] theorem State.clearOutputs_writeOk : (s.clearOutputs).writeOk = false := rfl
@[simp] theorem State.clearOutputs_echoMatch : (s.clearOutputs).echoMatch = false := rfl
@[simp] theorem State.clearOutputs_pendValid : (s.clearOutputs).pendValid = s.pendValid := rfl
@[simp] theorem State.clearOutputs_pendCmd : (s.clearOutputs).pendCmd = s.pendCmd := rfl
@[simp] theorem State.clearOutputs_pendRsplen : (s.clearOutputs).pendRsplen = s.pendRsplen := rfl
@[simp] theorem State.clearOutputs_pendFaddr : (s.clearOutputs).pendFaddr = s.pendFaddr := rfl
@[simp] theorem State.clearOutputs_txlen : (s.clearOutputs).txlen = s.txlen := rfl
@[simp] theorem State.clearOutputs_rxlen : (s.clearOutputs).rxlen = s.rxlen := rfl
@[simp] theorem State.clearOutputs_outlen : (s.clearOutputs).outlen = 0#8 := rfl
@[simp] theorem State.clearOutputs_rspEcho : (s.clearOutputs).rspEcho = s.rspEcho := rfl
@[simp] theorem State.clearOutputs_rspStatus : (s.clearOutputs).rspStatus = s.rspStatus := rfl
@[simp] theorem State.clearOutputs_mem : (s.clearOutputs).mem = s.mem := rfl
@[simp] theorem State.clearOutputs_inbox : (s.clearOutputs).inbox = s.inbox := rfl
@[simp] theorem State.clearOutputs_events : (s.clearOutputs).events = s.events := rfl

/-! ### setEchoMatch -/

@[simp] theorem State.setEchoMatch_crc : (s.setEchoMatch).crc = s.crc := rfl
@[simp] theorem State.setEchoMatch_addr : (s.setEchoMatch).addr = s.addr := rfl
@[simp] theorem State.setEchoMatch_code : (s.setEchoMatch).code = s.code := rfl
@[simp] theorem State.setEchoMatch_rspValid : (s.setEchoMatch).rspValid = s.rspValid := rfl
@[simp] theorem State.setEchoMatch_writeOk : (s.setEchoMatch).writeOk = s.writeOk := rfl
@[simp] theorem State.setEchoMatch_echoMatch : (s.setEchoMatch).echoMatch = (s.rspEcho == s.pendFaddr) := rfl
@[simp] theorem State.setEchoMatch_pendValid : (s.setEchoMatch).pendValid = s.pendValid := rfl
@[simp] theorem State.setEchoMatch_pendCmd : (s.setEchoMatch).pendCmd = s.pendCmd := rfl
@[simp] theorem State.setEchoMatch_pendRsplen : (s.setEchoMatch).pendRsplen = s.pendRsplen := rfl
@[simp] theorem State.setEchoMatch_pendFaddr : (s.setEchoMatch).pendFaddr = s.pendFaddr := rfl
@[simp] theorem State.setEchoMatch_txlen : (s.setEchoMatch).txlen = s.txlen := rfl
@[simp] theorem State.setEchoMatch_rxlen : (s.setEchoMatch).rxlen = s.rxlen := rfl
@[simp] theorem State.setEchoMatch_outlen : (s.setEchoMatch).outlen = s.outlen := rfl
@[simp] theorem State.setEchoMatch_rspEcho : (s.setEchoMatch).rspEcho = s.rspEcho := rfl
@[simp] theorem State.setEchoMatch_rspStatus : (s.setEchoMatch).rspStatus = s.rspStatus := rfl
@[simp] theorem State.setEchoMatch_mem : (s.setEchoMatch).mem = s.mem := rfl
@[simp] theorem State.setEchoMatch_inbox : (s.setEchoMatch).inbox = s.inbox := rfl
@[simp] theorem State.setEchoMatch_events : (s.setEchoMatch).events = s.events := rfl

/-! ### setWriteOk -/

@[simp] theorem State.setWriteOk_crc (P : Params) : (s.setWriteOk P).crc = s.crc := rfl
@[simp] theorem State.setWriteOk_addr (P : Params) : (s.setWriteOk P).addr = s.addr := rfl
@[simp] theorem State.setWriteOk_code (P : Params) : (s.setWriteOk P).code = s.code := rfl
@[simp] theorem State.setWriteOk_rspValid (P : Params) : (s.setWriteOk P).rspValid = s.rspValid := rfl
@[simp] theorem State.setWriteOk_writeOk (P : Params) : (s.setWriteOk P).writeOk = writeAccepted P s.rspStatus := rfl
@[simp] theorem State.setWriteOk_echoMatch (P : Params) : (s.setWriteOk P).echoMatch = s.echoMatch := rfl
@[simp] theorem State.setWriteOk_pendValid (P : Params) : (s.setWriteOk P).pendValid = s.pendValid := rfl
@[simp] theorem State.setWriteOk_pendCmd (P : Params) : (s.setWriteOk P).pendCmd = s.pendCmd := rfl
@[simp] theorem State.setWriteOk_pendRsplen (P : Params) : (s.setWriteOk P).pendRsplen = s.pendRsplen := rfl
@[simp] theorem State.setWriteOk_pendFaddr (P : Params) : (s.setWriteOk P).pendFaddr = s.pendFaddr := rfl
@[simp] theorem State.setWriteOk_txlen (P : Params) : (s.setWriteOk P).txlen = s.txlen := rfl
@[simp] theorem State.setWriteOk_rxlen (P : Params) : (s.setWriteOk P).rxlen = s.rxlen := rfl
@[simp] theorem State.setWriteOk_outlen (P : Params) : (s.setWriteOk P).outlen = s.outlen := rfl
@[simp] theorem State.setWriteOk_rspEcho (P : Params) : (s.setWriteOk P).rspEcho = s.rspEcho := rfl
@[simp] theorem State.setWriteOk_rspStatus (P : Params) : (s.setWriteOk P).rspStatus = s.rspStatus := rfl
@[simp] theorem State.setWriteOk_mem (P : Params) : (s.setWriteOk P).mem = s.mem := rfl
@[simp] theorem State.setWriteOk_inbox (P : Params) : (s.setWriteOk P).inbox = s.inbox := rfl
@[simp] theorem State.setWriteOk_events (P : Params) : (s.setWriteOk P).events = s.events := rfl

/-! ### loadTx -/

@[simp] theorem State.loadTx_crc (f : List Byte) : (s.loadTx f).crc = s.crc := rfl
@[simp] theorem State.loadTx_addr (f : List Byte) : (s.loadTx f).addr = s.addr := rfl
@[simp] theorem State.loadTx_code (f : List Byte) : (s.loadTx f).code = s.code := rfl
@[simp] theorem State.loadTx_rspValid (f : List Byte) : (s.loadTx f).rspValid = s.rspValid := rfl
@[simp] theorem State.loadTx_writeOk (f : List Byte) : (s.loadTx f).writeOk = s.writeOk := rfl
@[simp] theorem State.loadTx_echoMatch (f : List Byte) : (s.loadTx f).echoMatch = s.echoMatch := rfl
@[simp] theorem State.loadTx_pendValid (f : List Byte) : (s.loadTx f).pendValid = s.pendValid := rfl
@[simp] theorem State.loadTx_pendCmd (f : List Byte) : (s.loadTx f).pendCmd = s.pendCmd := rfl
@[simp] theorem State.loadTx_pendRsplen (f : List Byte) : (s.loadTx f).pendRsplen = s.pendRsplen := rfl
@[simp] theorem State.loadTx_pendFaddr (f : List Byte) : (s.loadTx f).pendFaddr = s.pendFaddr := rfl
@[simp] theorem State.loadTx_txlen (f : List Byte) : (s.loadTx f).txlen = BitVec.ofNat 8 f.length := rfl
@[simp] theorem State.loadTx_rxlen (f : List Byte) : (s.loadTx f).rxlen = s.rxlen := rfl
@[simp] theorem State.loadTx_outlen (f : List Byte) : (s.loadTx f).outlen = s.outlen := rfl
@[simp] theorem State.loadTx_rspEcho (f : List Byte) : (s.loadTx f).rspEcho = s.rspEcho := rfl
@[simp] theorem State.loadTx_rspStatus (f : List Byte) : (s.loadTx f).rspStatus = s.rspStatus := rfl
@[simp] theorem State.loadTx_mem (f : List Byte) : (s.loadTx f).mem = Memory.writeAll s.mem txBase f := rfl
@[simp] theorem State.loadTx_inbox (f : List Byte) : (s.loadTx f).inbox = s.inbox := rfl
@[simp] theorem State.loadTx_events (f : List Byte) : (s.loadTx f).events = s.events := rfl

/-! ### appendRx -/

@[simp] theorem State.appendRx_crc (b : Byte) : (s.appendRx b).crc = s.crc := rfl
@[simp] theorem State.appendRx_addr (b : Byte) : (s.appendRx b).addr = s.addr := rfl
@[simp] theorem State.appendRx_code (b : Byte) : (s.appendRx b).code = s.code := rfl
@[simp] theorem State.appendRx_rspValid (b : Byte) : (s.appendRx b).rspValid = s.rspValid := rfl
@[simp] theorem State.appendRx_writeOk (b : Byte) : (s.appendRx b).writeOk = s.writeOk := rfl
@[simp] theorem State.appendRx_echoMatch (b : Byte) : (s.appendRx b).echoMatch = s.echoMatch := rfl
@[simp] theorem State.appendRx_pendValid (b : Byte) : (s.appendRx b).pendValid = s.pendValid := rfl
@[simp] theorem State.appendRx_pendCmd (b : Byte) : (s.appendRx b).pendCmd = s.pendCmd := rfl
@[simp] theorem State.appendRx_pendRsplen (b : Byte) : (s.appendRx b).pendRsplen = s.pendRsplen := rfl
@[simp] theorem State.appendRx_pendFaddr (b : Byte) : (s.appendRx b).pendFaddr = s.pendFaddr := rfl
@[simp] theorem State.appendRx_txlen (b : Byte) : (s.appendRx b).txlen = s.txlen := rfl
@[simp] theorem State.appendRx_rxlen (b : Byte) : (s.appendRx b).rxlen = s.rxlen + 1#8 := rfl
@[simp] theorem State.appendRx_outlen (b : Byte) : (s.appendRx b).outlen = s.outlen := rfl
@[simp] theorem State.appendRx_rspEcho (b : Byte) : (s.appendRx b).rspEcho = s.rspEcho := rfl
@[simp] theorem State.appendRx_rspStatus (b : Byte) : (s.appendRx b).rspStatus = s.rspStatus := rfl
@[simp] theorem State.appendRx_mem (b : Byte) : (s.appendRx b).mem = Memory.write s.mem (rxBase + s.rxlen.toNat) b := rfl
@[simp] theorem State.appendRx_inbox (b : Byte) : (s.appendRx b).inbox = s.inbox := rfl
@[simp] theorem State.appendRx_events (b : Byte) : (s.appendRx b).events = s.events := rfl

/-! ### loadOut -/

@[simp] theorem State.loadOut_crc (p : List Byte) : (s.loadOut p).crc = s.crc := rfl
@[simp] theorem State.loadOut_addr (p : List Byte) : (s.loadOut p).addr = s.addr := rfl
@[simp] theorem State.loadOut_code (p : List Byte) : (s.loadOut p).code = s.code := rfl
@[simp] theorem State.loadOut_rspValid (p : List Byte) : (s.loadOut p).rspValid = s.rspValid := rfl
@[simp] theorem State.loadOut_writeOk (p : List Byte) : (s.loadOut p).writeOk = s.writeOk := rfl
@[simp] theorem State.loadOut_echoMatch (p : List Byte) : (s.loadOut p).echoMatch = s.echoMatch := rfl
@[simp] theorem State.loadOut_pendValid (p : List Byte) : (s.loadOut p).pendValid = s.pendValid := rfl
@[simp] theorem State.loadOut_pendCmd (p : List Byte) : (s.loadOut p).pendCmd = s.pendCmd := rfl
@[simp] theorem State.loadOut_pendRsplen (p : List Byte) : (s.loadOut p).pendRsplen = s.pendRsplen := rfl
@[simp] theorem State.loadOut_pendFaddr (p : List Byte) : (s.loadOut p).pendFaddr = s.pendFaddr := rfl
@[simp] theorem State.loadOut_txlen (p : List Byte) : (s.loadOut p).txlen = s.txlen := rfl
@[simp] theorem State.loadOut_rxlen (p : List Byte) : (s.loadOut p).rxlen = s.rxlen := rfl
@[simp] theorem State.loadOut_outlen (p : List Byte) : (s.loadOut p).outlen = BitVec.ofNat 8 p.length := rfl
@[simp] theorem State.loadOut_rspEcho (p : List Byte) : (s.loadOut p).rspEcho = s.rspEcho := rfl
@[simp] theorem State.loadOut_rspStatus (p : List Byte) : (s.loadOut p).rspStatus = s.rspStatus := rfl
@[simp] theorem State.loadOut_mem (p : List Byte) : (s.loadOut p).mem = Memory.writeAll s.mem outBase p := rfl
@[simp] theorem State.loadOut_inbox (p : List Byte) : (s.loadOut p).inbox = s.inbox := rfl
@[simp] theorem State.loadOut_events (p : List Byte) : (s.loadOut p).events = s.events := rfl

end Sys2Proof.Machine
end

