-- ==== Sys2Proof/Laws/Ops.lean ====
section
/-! SUPPORT. What each shared operation of the machine can do, said once. -/

namespace Sys2Proof.Machine

/-! ### Ending an operation -/

/-- `raise` always gives a next state: the one with the code written. -/
theorem raise_next {c : Code} {s t : State} : raise c s = .next t ↔ t = s.finish c := by
  simp [raise, eq_comm]

/-- An operation that needs the block idle, with a request open. -/
theorem whenIdle_pending {s : State} (go : Result) (h : s.pendValid = true) :
    whenIdle s go = .next (s.finish .requestOutstanding) := by simp [whenIdle, h, raise]

/-- The same with none open: the operation goes on. -/
theorem whenIdle_idle {s : State} (go : Result) (h : s.pendValid = false) : whenIdle s go = go := by
  simp [whenIdle, h]

/-- Both cases. -/
theorem whenIdle_next {s t : State} {go : Result} (h : whenIdle s go = .next t) :
    (s.pendValid = true ∧ t = s.finish .requestOutstanding) ∨ (s.pendValid = false ∧ go = .next t) := by
  cases hp : s.pendValid
  · exact .inr ⟨rfl, whenIdle_idle go hp ▸ h⟩
  · rw [whenIdle_pending go hp] at h
    cases h
    exact .inl ⟨rfl, rfl⟩

/-- Two operations in a row end in a next state only through one between them. -/
theorem andThen_next {r : Result} {k : State → Result} {t : State} (h : andThen r k = .next t) :
    ∃ s, r = .next s ∧ k s = .next t := by
  cases r with
  | next s => exact ⟨s, rfl, h⟩
  | fault e => cases h
  | refused e => cases h

@[simp] theorem andThen_of_next (s : State) (k : State → Result) : andThen (.next s) k = k s := rfl

@[simp] theorem andThen_skip (r : Result) : andThen r .next = r := by cases r <;> rfl

/-! ### The frame functions -/

theorem addrInRange_iff (a : Byte) : addrInRange a = true ↔ 1 ≤ a.toNat ∧ a.toNat ≤ 127 := by
  simp [addrInRange]

theorem addrInRange_false_iff (a : Byte) : addrInRange a = false ↔ a.toNat < 1 ∨ 127 < a.toNat := by
  simp [addrInRange]; omega

/-- The only codes of a failing check (R121). -/
theorem frameError_some {f : List Byte} {ea ec : Byte} {residue : Word16} {e : Code}
    (h : frameError f ea ec residue = some e) :
    (byteAt f 0 ≠ ea ∧ e = .addressMismatch)
    ∨ (byteAt f 0 = ea ∧ byteAt f 1 ≠ ec ∧ e = .commandMismatch)
    ∨ (byteAt f 0 = ea ∧ byteAt f 1 = ec ∧ residue ≠ 0x0000#16 ∧ e = .checksumInvalid) := by
  unfold frameError at h
  repeat' split at h
  all_goals simp_all

/-- A frame that passes the checks. -/
theorem frameError_none {f : List Byte} {ea ec : Byte} {residue : Word16} :
    frameError f ea ec residue = none ↔ byteAt f 0 = ea ∧ byteAt f 1 = ec ∧ residue = 0x0000#16 := by
  unfold frameError
  repeat' split
  all_goals simp_all

/-- The checks of `unframe`, on a frame that is long enough. -/
theorem unframe_checks {f : List Byte} (ea ec : Byte) (h : 4 ≤ f.length) :
    unframe f ea ec = match frameError f ea ec (checksum f) with
      | some e => .error e
      | none => .ok (payloadOf f) := by
  have h4 : ¬ f.length < 4 := by omega
  cases hf : frameError f ea ec (checksum f) <;> simp [unframe, h4, hf]

/-- What a frame that `unframe` accepts is like. -/
theorem unframe_ok {f : List Byte} {ea ec : Byte} {p : List Byte} (h : unframe f ea ec = .ok p) :
    4 ≤ f.length ∧ frameError f ea ec (checksum f) = none ∧ checksum f = 0x0000#16 ∧ p = payloadOf f := by
  by_cases h4 : f.length < 4
  · simp [unframe, h4] at h
  · rw [unframe_checks ea ec (by omega)] at h
    cases hf : frameError f ea ec (checksum f) with
    | some e => rw [hf] at h; cases h
    | none =>
      rw [hf] at h
      cases h
      exact ⟨by omega, rfl, (frameError_none.1 hf).2.2, rfl⟩

end Sys2Proof.Machine
end

