-- ==== Sys2Proof/Laws/Command.lean ====
section
/-! SUPPORT. What the operations of the command half can do: requests, one received byte, completion, the response
decoders, a fed frame. -/

namespace Sys2Proof.Machine

/-! ### Requests -/

/-- Everything a request can do: refused, unbound, or issued. -/
theorem request_next {cmd rsplen : Byte} {p : List Byte} {faddr : Word32} {s t : State}
    (h : request cmd p rsplen faddr s = .next t) :
    (s.pendValid = true ∧ t = s.finish .requestOutstanding)
    ∨ (s.pendValid = false ∧ s.addr = 0x00#8 ∧ t = s.finish .addressUnset)
    ∨ (s.pendValid = false ∧ s.addr ≠ 0x00#8 ∧ reqIssue cmd p rsplen faddr s = .next t) := by
  rcases whenIdle_next h with ⟨hp, rfl⟩ | ⟨hp, h⟩
  · exact .inl ⟨hp, rfl⟩
  · by_cases ha : s.addr = 0x00#8
    · rw [if_pos ha] at h
      cases h
      exact .inr (.inl ⟨hp, ha, rfl⟩)
    · rw [if_neg ha] at h
      exact .inr (.inr ⟨hp, ha, h⟩)

/-! ### Response decoders -/

/-- Everything a response decoder can do, by the command of the exchange. -/
theorem decodeResponse_next {P : Params} {p : List Byte} {s t : State} (h : decodeResponse P p s = .next t) :
    (s.pendCmd = Config.opcBootEnter ∧ ∃ c, (c = .ok ∨ c = .magicMismatch) ∧
      t = { s with rspEcho := u32le p 0 }.finish c)
    ∨ (s.pendCmd = Config.opcReadChunk ∧
      t = { s with rspEcho := u32le p 0, echoMatch := u32le p 0 == s.pendFaddr }.finish .ok)
    ∨ (s.pendCmd = Config.opcBootExit ∧ t = s.finish .ok)
    ∨ (s.pendCmd = Config.opcWriteChunk ∧ ∃ c, (c = .ok ∨ c = .writeRejected) ∧
      t = { s with
        rspEcho := u32le p 0
        rspStatus := u32le p 4
        echoMatch := u32le p 0 == s.pendFaddr
        writeOk := writeAccepted P (u32le p 4) }.finish c) := by
  unfold decodeResponse at h
  split at h
  · rename_i hc
    refine .inl ⟨hc, ?_⟩
    simp only [rspBootEnter] at h
    split at h <;> cases h
    · exact ⟨_, .inr rfl, rfl⟩
    · exact ⟨_, .inl rfl, rfl⟩
  · split at h
    · rename_i hc
      cases h
      exact .inr (.inl ⟨hc, rfl⟩)
    · split at h
      · rename_i hc
        cases h
        exact .inr (.inr (.inl ⟨hc, rfl⟩))
      · split at h
        · rename_i hc
          refine .inr (.inr (.inr ⟨hc, ?_⟩))
          simp only [rspWriteChunk] at h
          split at h <;> cases h
          · exact ⟨_, .inr rfl, rfl⟩
          · exact ⟨_, .inl rfl, rfl⟩
        · cases h

/-- A decoder of one of the four commands always gives a next state. -/
theorem decodeResponse_answers (P : Params) (p : List Byte) (s : State)
    (h : s.pendCmd = Config.opcBootEnter ∨ s.pendCmd = Config.opcReadChunk ∨ s.pendCmd = Config.opcBootExit
      ∨ s.pendCmd = Config.opcWriteChunk) : ∃ t, decodeResponse P p s = .next t := by
  unfold decodeResponse
  repeat' split
  · simp only [rspBootEnter]; split <;> exact ⟨_, rfl⟩
  · exact ⟨_, rfl⟩
  · exact ⟨_, rfl⟩
  · simp only [rspWriteChunk]; split <;> exact ⟨_, rfl⟩
  · exact absurd h (by simp_all)

/-! ### One received byte -/

/-- The state after a byte is taken in, before it is seen whether it was the last (R150). -/
def State.taken (b : Byte) (s : State) : State := { s.appendRx b with crc := rxCrc b s }

/-- The state a passed completion gives to the decoder (R151). -/
def State.delivered (p : List Byte) (s : State) : State :=
  { { s with pendValid := false }.loadOut p with rspValid := true }

/-- RX_BYTE with no exchange open. -/
theorem rxByteWith_idle (P : Params) (b : Byte) {s : State} (h : s.pendValid = false) :
    rxByteWith P b s = .next (s.finish .noRequestPending) := by simp [rxByteWith, h, raise]

/-- RX_BYTE before the last byte. -/
theorem rxByteWith_waits (P : Params) (b : Byte) {s : State} (h : s.pendValid = true)
    (hl : (s.rxlen + 1#8).toNat < s.pendRsplen.toNat) :
    rxByteWith P b s = .next ((s.taken b).finish .receiving) := by
  rw [rxByteWith, if_neg (by simp [h])]
  exact if_pos hl

/-- RX_BYTE of the last byte. -/
theorem rxByteWith_completes (P : Params) (b : Byte) {s : State} (h : s.pendValid = true)
    (hl : ¬ (s.rxlen + 1#8).toNat < s.pendRsplen.toNat) : rxByteWith P b s = complete P (s.taken b) := by
  rw [rxByteWith, if_neg (by simp [h])]
  exact if_neg hl

/-- Everything completion can do: a failing check, or a payload delivered to the decoder. -/
theorem complete_next {P : Params} {s t : State} (h : complete P s = .next t) :
    (∃ e, frameError s.rxBytes s.addr s.pendCmd s.crc = some e ∧ t = { s with pendValid := false }.finish e)
    ∨ (frameError s.rxBytes s.addr s.pendCmd s.crc = none
      ∧ decodeResponse P (payloadOf s.rxBytes) (s.delivered (payloadOf s.rxBytes)) = .next t) := by
  have hb : State.rxBytes { s with pendValid := false } = s.rxBytes := rfl
  simp only [complete, hb] at h
  cases hf : frameError s.rxBytes s.addr s.pendCmd s.crc with
  | some e => rw [hf] at h; cases h; exact .inl ⟨e, rfl, rfl⟩
  | none => rw [hf] at h; exact .inr ⟨rfl, h⟩

/-- Everything RX_BYTE can do. -/
theorem rxByteWith_next {P : Params} {b : Byte} {s t : State} (h : rxByteWith P b s = .next t) :
    (s.pendValid = false ∧ t = s.finish .noRequestPending)
    ∨ (s.pendValid = true ∧ (s.rxlen + 1#8).toNat < s.pendRsplen.toNat ∧ t = (s.taken b).finish .receiving)
    ∨ (s.pendValid = true ∧ ¬ (s.rxlen + 1#8).toNat < s.pendRsplen.toNat ∧ complete P (s.taken b) = .next t) := by
  cases hp : s.pendValid
  · rw [rxByteWith_idle P b hp] at h
    cases h
    exact .inl ⟨rfl, rfl⟩
  · by_cases hl : (s.rxlen + 1#8).toNat < s.pendRsplen.toNat
    · rw [rxByteWith_waits P b hp hl] at h
      cases h
      exact .inr (.inl ⟨rfl, hl, rfl⟩)
    · rw [rxByteWith_completes P b hp hl] at h
      exact .inr (.inr ⟨rfl, hl, h⟩)

/-! ### The bytes received so far -/

theorem rxBytes_length (s : State) : s.rxBytes.length = s.rxlen.toNat := Memory.readAll_length _ _ _

/-- A byte taken in stands last. -/
theorem taken_rxBytes (b : Byte) {s : State} (h : (s.rxlen + 1#8).toNat = s.rxlen.toNat + 1) :
    (s.taken b).rxBytes = s.rxBytes ++ [b] := by
  show Memory.readAll (Memory.write s.mem (rxBase + s.rxlen.toNat) b) rxBase (s.rxlen + 1#8).toNat = _
  rw [h, Memory.readAll_snoc, Memory.read_write_same, Memory.readAll_write_other _ _ _ _ _ (by omega)]
  rfl

/-- RXLEN does not wrap while it is below a byte's value. -/
theorem rxlen_succ {x y : Byte} (h : x.toNat < y.toNat) : (x + 1#8).toNat = x.toNat + 1 := by
  have := y.isLt
  simp [BitVec.toNat_add]; omega

/-! ### The open exchange -/

/-- The four descriptors: command and response length. -/
theorem pendShape_cases {cmd rsplen : Byte} {faddr : Word32} (h : pendShape cmd rsplen faddr = true) :
    (cmd = Config.opcBootEnter ∧ rsplen = 8#8) ∨ (cmd = Config.opcReadChunk ∧ rsplen = 136#8)
    ∨ (cmd = Config.opcBootExit ∧ rsplen = 4#8) ∨ (cmd = Config.opcWriteChunk ∧ rsplen = 12#8) := by
  simp only [pendShape, Bool.or_eq_true, Bool.and_eq_true, beq_iff_eq] at h
  tauto

theorem pendShape_bounds {cmd rsplen : Byte} {faddr : Word32} (h : pendShape cmd rsplen faddr = true) :
    4 ≤ rsplen.toNat ∧ rsplen.toNat ≤ 136 := by
  rcases pendShape_cases h with ⟨-, rfl⟩ | ⟨-, rfl⟩ | ⟨-, rfl⟩ | ⟨-, rfl⟩ <;> decide

/-- Under the invariant the running CRC is the checksum of what has come in, the new byte included. -/
theorem State.Inv.rxCrc_eq {s : State} (hi : s.Inv) (h : s.pendValid = true) (b : Byte) :
    rxCrc b s = checksum (s.rxBytes ++ [b]) := by
  rw [checksum_snoc, rxCrc]
  by_cases hz : s.rxlen = 0#8
  · rw [if_pos hz, show s.rxBytes = [] by simp [State.rxBytes, hz, Memory.readAll]]; rfl
  · rw [if_neg hz, hi.pendCrc h hz]

/-- The buffers by ranges (R53). -/
theorem inBuffers_iff (a : Nat) :
    inBuffers a = true ↔ (0x100 ≤ a ∧ a < 0x188) ∨ (0x200 ≤ a ∧ a < 0x288) ∨ (0x300 ≤ a ∧ a < 0x384) := by
  simp only [inBuffers, Bool.or_eq_true, decide_eq_true_eq]
  simp only [txBase, rxBase, outBase, Config.maxFrame, Config.maxPayload]
  omega

/-! ### Fed frames -/

theorem rxFrameWith_append (P : Params) (f g : List Byte) (s : State) :
    rxFrameWith P (f ++ g) s = andThen (rxFrameWith P f s) (rxFrameWith P g) := by
  induction f generalizing s with
  | nil => rfl
  | cons b r ih =>
    simp only [List.cons_append, rxFrameWith]
    cases rxByteWith P b s with
    | next t => exact ih t
    | fault e => rfl
    | refused e => rfl

/-- A property that each received byte keeps holds after a fed frame. -/
theorem rxFrameWith_keeps {P : Params} {Q : State → Prop}
    (hb : ∀ b s t, Q s → rxByteWith P b s = .next t → Q t) {f : List Byte} {s t : State} (hs : Q s)
    (h : rxFrameWith P f s = .next t) : Q t := by
  induction f generalizing s with
  | nil => cases h; exact hs
  | cons b r ih =>
    obtain ⟨u, hu, h⟩ := andThen_next h
    exact ih (hb b s u hs hu) h

end Sys2Proof.Machine
end

