-- ==== Sys2Proof/Laws/PerInstr.lean ====
section
/-! SUPPORT. One lemma per instruction: the length of its encoding is the one R71, R72 and R82 give its row. -/

namespace Sys2Proof.Laws.EncodedLength

open Sys2Proof.Machine

/-- The length of an instruction's row, in bytes (R71, R82). -/
def rowLength : Instr → Nat
  | .crcInit => 1
  | .crcByte _ => 2
  | .crcBlock s => 3 + s.length
  | .setAddr _ => 2
  | .abort => 1
  | .frameEncode _ _ p => 4 + p.length
  | .frameDecode _ _ f => 4 + f.length
  | .reqBootEnter => 1
  | .reqReadChunk _ => 5
  | .reqBootExit => 1
  | .reqWriteChunk _ _ => 133
  | .rxByte _ => 2
  | .bootEnterRequest _ _ _ => 8
  | .bootEnterResponse _ _ _ => 8
  | .readChunkRequest _ _ _ => 8
  | .readChunkResponse _ _ _ _ => 136
  | .bootExitRequest _ _ => 4
  | .bootExitResponse _ _ => 4
  | .writeChunkRequest _ _ _ _ => 136
  | .writeChunkResponse _ _ _ _ => 12

/-- The encoding of a well-formed instruction has its row's length. -/
def Statement (i : Instr) : Prop := i.wellFormed = true → (encode i).bytes.length = rowLength i

theorem crcInit : Statement .crcInit := fun _ => rfl

theorem crcByte (b : Byte) : Statement (.crcByte b) := fun _ => rfl

theorem crcBlock (s : List Byte) : Statement (.crcBlock s) := by
  intro _
  simp [encode, Transfer.bytes, rowLength, le16]; omega

theorem setAddr (a : Byte) : Statement (.setAddr a) := fun _ => rfl

theorem abort : Statement .abort := fun _ => rfl

theorem frameEncode (a : Byte) (c : Byte) (p : List Byte) : Statement (.frameEncode a c p) := by
  intro _
  simp [encode, Transfer.bytes, rowLength]; omega

theorem frameDecode (ea : Byte) (ec : Byte) (f : List Byte) : Statement (.frameDecode ea ec f) := by
  intro _
  simp [encode, Transfer.bytes, rowLength]; omega

theorem reqBootEnter : Statement .reqBootEnter := fun _ => rfl

theorem reqReadChunk (fa : Word32) : Statement (.reqReadChunk fa) := fun _ => rfl

theorem reqBootExit : Statement .reqBootExit := fun _ => rfl

theorem reqWriteChunk (fa : Word32) (d : List Byte) : Statement (.reqWriteChunk fa d) := by
  intro h
  have h : d.length = 128 := of_decide_eq_true h
  simp [encode, Transfer.bytes, rowLength, h]

theorem rxByte (b : Byte) : Statement (.rxByte b) := fun _ => rfl

theorem bootEnterRequest (a : Byte) (magic : Word32) (crc : Word16) : Statement (.bootEnterRequest a magic crc) := fun _ => rfl

theorem bootEnterResponse (a : Byte) (magic : Word32) (crc : Word16) : Statement (.bootEnterResponse a magic crc) := fun _ => rfl

theorem readChunkRequest (a : Byte) (fa : Word32) (crc : Word16) : Statement (.readChunkRequest a fa crc) := fun _ => rfl

theorem readChunkResponse (a : Byte) (echo : Word32) (d : List Byte) (crc : Word16) : Statement (.readChunkResponse a echo d crc) := by
  intro h
  have h : d.length = 128 := of_decide_eq_true h
  simp [encode, Transfer.bytes, rowLength, h]

theorem bootExitRequest (a : Byte) (crc : Word16) : Statement (.bootExitRequest a crc) := fun _ => rfl

theorem bootExitResponse (a : Byte) (crc : Word16) : Statement (.bootExitResponse a crc) := fun _ => rfl

theorem writeChunkRequest (a : Byte) (fa : Word32) (d : List Byte) (crc : Word16) : Statement (.writeChunkRequest a fa d crc) := by
  intro h
  have h : d.length = 128 := of_decide_eq_true h
  simp [encode, Transfer.bytes, rowLength, h]

theorem writeChunkResponse (a : Byte) (echo : Word32) (status : Word32) (crc : Word16) : Statement (.writeChunkResponse a echo status crc) := fun _ => rfl

end Sys2Proof.Laws.EncodedLength
end

