-- ==== Sys2Proof/Tests/Slice0.lean ====
section
/-! SUPPORT. The model's own tests: well-formedness, decoding of words written out from the spec's tables, small runs with
the results that 95_test_vectors.md states, and a witness for the hypotheses of every statement. -/

namespace Sys2Proof.Tests

open Machine

set_option maxRecDepth 20000

/-! ### Helpers -/

/-- What a result that is a next state shows. -/
def look {α : Type} (f : State → α) : Result → Option α
  | .next s => some (f s)
  | .fault _ => none
  | .refused _ => none

theorem look_some {α : Type} {f : State → α} {r : Result} {x : α} (h : look f r = some x) :
    ∃ t, r = .next t ∧ f t = x := by
  cases r <;> simp_all [look]

/-- The state of a result, or the reset state. -/
def after : Result → State
  | .next s => s
  | .fault _ => .reset
  | .refused _ => .reset

/-- Bytes `from`, `from + 1`, ... as 95_test_vectors.md section 0 writes `00..7F`. -/
def countUp (first n : Nat) : List Byte := (List.range n).map fun i => BitVec.ofNat 8 (first + i)

/-- The illustrative parameters of 95_test_vectors.md section 0 (D30). -/
def illustrative : Params := { bootMagic := 0x12345678#32, writeOkA := 0x00000000#32, writeOkB := 0x00000080#32 }

/-- Reset, then SET_ADDR 1. -/
def bound : State := { State.reset with addr := 0x01#8 }

/-- An exchange of ADDR 1 with `tx` sent and `rx` received so far. -/
def awaiting (cmd rsplen : Byte) (faddr : Word32) (tx rx : List Byte) : State :=
  { bound with
    crc := checksum rx
    pendValid := true
    pendCmd := cmd
    pendRsplen := rsplen
    pendFaddr := faddr
    txlen := BitVec.ofNat 8 tx.length
    rxlen := BitVec.ofNat 8 rx.length
    mem := Memory.writeAll (Memory.writeAll [] txBase tx) rxBase rx }

/-- V-CMD-03 with the first three response bytes of R150's example. -/
def midExit : State :=
  awaiting 102#8 4#8 0#32 [0x01#8, 0x66#8, 0x80#8, 0x0A#8] [0x01#8, 0x66#8, 0x80#8]

/-- V-CMD-01 with seven response bytes of V-CMD-20. -/
def midEnter : State :=
  awaiting 100#8 8#8 0#32 [0x01#8, 0x64#8, 0x78#8, 0x56#8, 0x34#8, 0x12#8, 0x1E#8, 0x7F#8]
    [0x01#8, 0x64#8, 0x78#8, 0x56#8, 0x34#8, 0x12#8, 0x1E#8]

/-- V-CMD-02 with 135 response bytes of V-CMD-22. -/
def midRead : State :=
  awaiting 101#8 136#8 0x08001000#32 [0x01#8, 0x65#8, 0x00#8, 0x10#8, 0x00#8, 0x08#8, 0x4D#8, 0xC1#8]
    ([0x01#8, 0x65#8, 0x00#8, 0x10#8, 0x00#8, 0x08#8] ++ countUp 0 128 ++ [0xC4#8])

/-- V-CMD-04 with eleven response bytes of V-CMD-26. -/
def midWrite : State :=
  awaiting 103#8 12#8 0x08001000#32
    ([0x01#8, 0x67#8, 0x00#8, 0x10#8, 0x00#8, 0x08#8] ++ countUp 0 128 ++ [0xE1#8, 0x09#8])
    [0x01#8, 0x67#8, 0x00#8, 0x10#8, 0x00#8, 0x08#8, 0x00#8, 0x00#8, 0x00#8, 0x00#8, 0x5F#8]

theorem bound_inv : bound.Inv := by
  constructor <;> decide

theorem midExit_inv : midExit.Inv := by
  constructor <;> decide +kernel

theorem midEnter_inv : midEnter.Inv := by
  constructor <;> decide +kernel

theorem midRead_inv : midRead.Inv := by
  constructor <;> decide +kernel

theorem midWrite_inv : midWrite.Inv := by
  constructor <;> decide +kernel


/-! ### Well-formedness refuses what has no encoding -/

theorem test_wellFormed_crcBlock : (Instr.crcBlock (List.replicate 65536 0#8)).wellFormed = false := by
  simp only [Instr.wellFormed, List.length_replicate]; decide

theorem test_wellFormed_frameEncode : (Instr.frameEncode 1#8 0#8 (List.replicate 256 0#8)).wellFormed = false := by
  simp only [Instr.wellFormed, List.length_replicate]; decide

theorem test_wellFormed_frameDecode : (Instr.frameDecode 1#8 0#8 (List.replicate 256 0#8)).wellFormed = false := by
  simp only [Instr.wellFormed, List.length_replicate]; decide

theorem test_wellFormed_reqWriteChunk : (Instr.reqWriteChunk 0#32 (countUp 0 127)).wellFormed = false := by
  simp [Instr.wellFormed, countUp, Config.chunk]

theorem test_wellFormed_readChunkResponse : (Instr.readChunkResponse 1#8 0#32 (countUp 0 129) 0#16).wellFormed = false := by
  simp [Instr.wellFormed, countUp, Config.chunk]

theorem test_wellFormed_writeChunkRequest : (Instr.writeChunkRequest 1#8 0#32 [] 0#16).wellFormed = false := by
  simp [Instr.wellFormed, Config.chunk]

/-! ### Decoding of words written out from R71, R72 and R80 to R90 -/

theorem test_decode_crcInit : decode (.message [0x01#8]) = .ok .crcInit := rfl

theorem test_decode_crcByte : decode (.message [0x02#8, 0x31#8]) = .ok (.crcByte 0x31#8) := rfl

theorem test_decode_crcBlock :
    decode (.message [0x03#8, 0x03#8, 0x00#8, 0xAA#8, 0xBB#8, 0xCC#8]) = .ok (.crcBlock [0xAA#8, 0xBB#8, 0xCC#8]) := rfl

/-- The count's second byte counts 256s (R73). -/
theorem test_decode_crcBlock_count :
    decode (.message ([0x03#8, 0x01#8, 0x01#8] ++ List.replicate 257 0x55#8))
      = .ok (.crcBlock (List.replicate 257 0x55#8)) := rfl

theorem test_decode_setAddr : decode (.message [0x10#8, 0x0A#8]) = .ok (.setAddr 0x0A#8) := rfl

theorem test_decode_abort : decode (.message [0x11#8]) = .ok .abort := rfl

theorem test_decode_frameEncode :
    decode (.message [0x20#8, 0x01#8, 0xE5#8, 0x02#8, 0x07#8, 0x08#8])
      = .ok (.frameEncode 0x01#8 0xE5#8 [0x07#8, 0x08#8]) := rfl

theorem test_decode_frameDecode :
    decode (.message [0x21#8, 0x02#8, 0x66#8, 0x03#8, 0x01#8, 0x66#8, 0x80#8])
      = .ok (.frameDecode 0x02#8 0x66#8 [0x01#8, 0x66#8, 0x80#8]) := rfl

theorem test_decode_reqBootEnter : decode (.message [0x30#8]) = .ok .reqBootEnter := rfl

theorem test_decode_reqReadChunk :
    decode (.message [0x31#8, 0x78#8, 0x56#8, 0x34#8, 0x12#8]) = .ok (.reqReadChunk 0x12345678#32) := rfl

theorem test_decode_reqBootExit : decode (.message [0x32#8]) = .ok .reqBootExit := rfl

theorem test_decode_reqWriteChunk :
    decode (.message ([0x33#8, 0x00#8, 0x10#8, 0x00#8, 0x08#8] ++ countUp 0 128))
      = .ok (.reqWriteChunk 0x08001000#32 (countUp 0 128)) := rfl

theorem test_decode_rxByte : decode (.message [0x40#8, 0x80#8]) = .ok (.rxByte 0x80#8) := rfl

theorem test_decode_bootEnterRequest :
    decode (.lineOut [0x01#8, 0x64#8, 0x78#8, 0x56#8, 0x34#8, 0x12#8, 0x1E#8, 0x7F#8])
      = .ok (.bootEnterRequest 0x01#8 0x12345678#32 0x7F1E#16) := rfl

theorem test_decode_bootEnterResponse :
    decode (.lineIn [0x01#8, 0x64#8, 0x79#8, 0x56#8, 0x34#8, 0x12#8, 0x1F#8, 0x83#8])
      = .ok (.bootEnterResponse 0x01#8 0x12345679#32 0x831F#16) := rfl

theorem test_decode_readChunkRequest :
    decode (.lineOut [0x0A#8, 0x65#8, 0x80#8, 0x10#8, 0x00#8, 0x08#8, 0x65#8, 0x7A#8])
      = .ok (.readChunkRequest 0x0A#8 0x08001080#32 0x7A65#16) := rfl

theorem test_decode_readChunkResponse :
    decode (.lineIn ([0x01#8, 0x65#8, 0x00#8, 0x10#8, 0x00#8, 0x08#8] ++ countUp 0 128 ++ [0xC4#8, 0x69#8]))
      = .ok (.readChunkResponse 0x01#8 0x08001000#32 (countUp 0 128) 0x69C4#16) := rfl

theorem test_decode_bootExitRequest :
    decode (.lineOut [0x7F#8, 0x66#8, 0xA1#8, 0xAA#8]) = .ok (.bootExitRequest 0x7F#8 0xAAA1#16) := rfl

theorem test_decode_bootExitResponse :
    decode (.lineIn [0x01#8, 0x66#8, 0x80#8, 0x0A#8]) = .ok (.bootExitResponse 0x01#8 0x0A80#16) := rfl

theorem test_decode_writeChunkRequest :
    decode (.lineOut ([0x01#8, 0x67#8, 0x00#8, 0x10#8, 0x00#8, 0x08#8] ++ countUp 0 128 ++ [0xE1#8, 0x09#8]))
      = .ok (.writeChunkRequest 0x01#8 0x08001000#32 (countUp 0 128) 0x09E1#16) := rfl

theorem test_decode_writeChunkResponse :
    decode (.lineIn [0x01#8, 0x67#8, 0x00#8, 0x10#8, 0x00#8, 0x08#8, 0x05#8, 0x00#8, 0x00#8, 0x00#8, 0x5F#8, 0x3C#8])
      = .ok (.writeChunkResponse 0x01#8 0x08001000#32 0x00000005#32 0x3C5F#16) := rfl

/-- V-ERR-02, V-ERR-04, V-ERR-08 and V-CRC-37: each failure of R74 by its name. -/
theorem test_decode_rejects :
    decode (.message []) = .error .emptyMessage
    ∧ decode (.message [0x99#8]) = .error (.reservedCode 0x99#8)
    ∧ decode (.message [0x31#8, 0x00#8, 0x10#8, 0x00#8]) = .error (.badLength 0x31#8)
    ∧ decode (.message [0x03#8, 0x0A#8, 0x00#8, 0x31#8]) = .error (.badLength 0x03#8)
    ∧ decode (.lineIn [0x01#8, 0xE6#8, 0x80#8, 0x0A#8]) = .error .notACommandFrame := ⟨rfl, rfl, rfl, rfl, rfl⟩

/-- A table word of an operation and of a wire frame. -/
theorem test_decodeTableWord :
    decodeTableWord 8 0x02 = some (.crcByte 0#8) ∧ decodeTableWord 8 0x40 = some (.rxByte 0#8)
    ∧ decodeTableWord 8 0x66 = some (.bootExitResponse 0#8 0#16) := ⟨rfl, rfl, rfl⟩

/-! ### The checksum -/

/-- V-CRC-08, V-CRC-09, V-CRC-11, V-CRC-12. -/
theorem test_crcStep :
    crcStep 0x1234#16 0x56#8 = 0xE993#16 ∧ crcStep 0xA001#16 0x00#8 = 0xC061#16
    ∧ crcStep 0x8000#16 0x00#8 = 0x0080#16 ∧ crcStep 0xFFFF#16 0x80#8 = 0xE0BE#16 := by decide

/-- V-CRC-10, V-CRC-18. -/
theorem test_checksum :
    checksum (countUp 0x31 9) = 0x4B37#16 ∧ checksum [0xFF#8, 0xFF#8, 0xFF#8, 0xFF#8] = 0xB001#16 := by decide +kernel

/-! ### Operations -/

/-- The example of R105. -/
theorem test_crcInit :
    look (fun t => (t.crc, t.code)) (exec .crcInit { State.reset with crc := 0x1234#16 }) = some (0xFFFF#16, .ok) := rfl

/-- V-CRC-30. -/
theorem test_crcByte :
    look (fun t => (t.crc, t.code)) (runTransfer (.message [0x02#8, 0x31#8]) .reset) = some (0x947E#16, .ok) := by
  decide +kernel

/-- V-CRC-35. -/
theorem test_crcBlock :
    look (fun t => (t.crc, t.code))
      (runTransfer (.message [0x03#8, 0x04#8, 0x00#8, 0x01#8, 0x66#8, 0x80#8, 0x0A#8]) .reset)
      = some (0x0000#16, .ok) := by decide +kernel

/-- V-CRC-37. -/
theorem test_crcBlock_malformed :
    look (fun t => (t.crc, t.code)) (runTransfer (.message ([0x03#8, 0x0A#8, 0x00#8] ++ countUp 0x31 9)) .reset)
      = some (0xFFFF#16, .illegalOp) := by decide +kernel

/-- V-CTL-01. -/
theorem test_setAddr :
    look (fun t => (t.addr, t.status)) (exec (.setAddr 0x0A#8) .reset) = some (0x0A#8, 0x0020#16) := by decide

/-- V-CTL-02, its second message. -/
theorem test_setAddr_range :
    look (fun t => (t.addr, t.status)) (exec (.setAddr 0x80#8) { State.reset with addr := 0x0A#8 })
      = some (0x0A#8, 0x002A#16) := by decide

/-- V-CTL-07, its last message, one byte later. -/
theorem test_abort :
    look (fun t => (t.pendValid, t.rxlen, t.rxBytes, t.status)) (exec .abort midExit)
      = some (false, 3#8, [0x01#8, 0x66#8, 0x80#8], 0x0028#16) := by decide +kernel

/-- V-CTL-06. -/
theorem test_abort_idle : look State.status (exec .abort .reset) = some 0x000D#16 := by decide

/-- V-FR-01. -/
theorem test_frameEncode :
    look (fun t => (t.code, t.txFrame, t.crc)) (exec (.frameEncode 0x01#8 0x03#8 [0#8, 0#8, 0#8, 0x0A#8]) .reset)
      = some (.ok, [0x01#8, 0x03#8, 0x00#8, 0x00#8, 0x00#8, 0x0A#8, 0xC5#8, 0xCD#8], 0xCDC5#16) := by decide +kernel

/-- V-ERR-15. -/
theorem test_frameEncode_priority :
    look (fun t => (t.code, t.txlen)) (exec (.frameEncode 0x00#8 0x66#8 (List.replicate 133 0#8)) .reset)
      = some (.addressOutOfRange, 0#8) := by decide

/-- V-FR-11. -/
theorem test_frameDecode :
    look (fun t => (t.code, t.crc, t.outPayload, t.rspValid))
      (exec (.frameDecode 0x01#8 0x03#8 [0x01#8, 0x03#8, 0x00#8, 0x00#8, 0x00#8, 0x0A#8, 0xC5#8, 0xCD#8]) .reset)
      = some (.ok, 0x0000#16, [0x00#8, 0x00#8, 0x00#8, 0x0A#8], true) := by decide +kernel

/-- V-FR-18. -/
theorem test_frameDecode_order :
    look (fun t => (t.code, t.crc, t.outlen, t.rspValid))
      (exec (.frameDecode 0x02#8 0x66#8 [0x01#8, 0x66#8, 0x80#8, 0x0B#8]) .reset)
      = some (.addressMismatch, 0xC0C1#16, 0#8, false) := by decide +kernel

/-- V-CMD-01. -/
theorem test_reqBootEnter :
    look (fun t => (t.txFrame, t.crc, t.pendCmd, t.pendRsplen, t.status)) (bootEnterWith illustrative bound)
      = some ([0x01#8, 0x64#8, 0x78#8, 0x56#8, 0x34#8, 0x12#8, 0x1E#8, 0x7F#8], 0x7F1E#16, 100#8, 8#8, 0x0030#16) := by
  decide +kernel

/-- V-ERR-01. -/
theorem test_reqBootEnter_unset : look State.code (exec .reqBootEnter .reset) = some .addressUnset := rfl

/-- V-CMD-02. -/
theorem test_reqReadChunk :
    look (fun t => (t.txFrame, t.crc, t.pendFaddr, t.pendRsplen, t.status)) (exec (.reqReadChunk 0x08001000#32) bound)
      = some ([0x01#8, 0x65#8, 0x00#8, 0x10#8, 0x00#8, 0x08#8, 0x4D#8, 0xC1#8], 0xC14D#16, 0x08001000#32, 136#8,
        0x0030#16) := by
  decide +kernel

/-- V-CMD-03. -/
theorem test_reqBootExit :
    look (fun t => (t.txFrame, t.crc, t.pendCmd, t.pendRsplen)) (exec .reqBootExit bound)
      = some ([0x01#8, 0x66#8, 0x80#8, 0x0A#8], 0x0A80#16, 102#8, 4#8) := by decide +kernel

/-- V-CMD-04. -/
theorem test_reqWriteChunk :
    look (fun t => (t.txlen, t.txFrame.drop 134, t.crc, t.pendRsplen)) (exec (.reqWriteChunk 0x08001000#32 (countUp 0 128)) bound)
      = some (136#8, [0xE1#8, 0x09#8], 0x09E1#16, 12#8) := by decide +kernel

/-- V-CMD-25, its last byte. -/
theorem test_rxByte :
    look (fun t => (t.status, t.rxlen, t.outlen, t.crc)) (exec (.rxByte 0x0A#8) midExit)
      = some (0x0060#16, 4#8, 0#8, 0x0000#16) := by decide +kernel

/-- V-ERR-16. -/
theorem test_rxByte_idle :
    look (fun t => (t.code, t.rxlen)) (exec (.rxByte 0x01#8) .reset) = some (.noRequestPending, 0#8) := rfl

/-! ### Frames on the line -/

/-- R83 with R25: the request of V-CMD-01 leaves no trace but in the history. -/
theorem test_bootEnterRequest :
    look (fun t => (t.status, t.events)) (exec (.bootEnterRequest 0x01#8 0x12345678#32 0x7F1E#16) bound)
      = some (0x0020#16, [.sent [0x01#8, 0x64#8, 0x78#8, 0x56#8, 0x34#8, 0x12#8, 0x1E#8, 0x7F#8]]) := by decide

/-- R85. -/
theorem test_readChunkRequest :
    look State.events (exec (.readChunkRequest 0x01#8 0x08001000#32 0xC14D#16) bound)
      = some [.sent [0x01#8, 0x65#8, 0x00#8, 0x10#8, 0x00#8, 0x08#8, 0x4D#8, 0xC1#8]] := by decide

/-- R87. -/
theorem test_bootExitRequest :
    look State.events (exec (.bootExitRequest 0x01#8 0x0A80#16) bound)
      = some [.sent [0x01#8, 0x66#8, 0x80#8, 0x0A#8]] := by decide

/-- R89. -/
theorem test_writeChunkRequest :
    look State.events (exec (.writeChunkRequest 0x01#8 0x08001000#32 [0x55#8] 0x1234#16) bound)
      = some [.sent [0x01#8, 0x67#8, 0x00#8, 0x10#8, 0x00#8, 0x08#8, 0x55#8, 0x34#8, 0x12#8]] := by decide

/-- V-CMD-20 and V-CMD-21, with the illustrative magic. -/
theorem test_bootEnterResponse :
    look (fun t => (t.status, t.rspEcho, t.outPayload))
      (rxFrameWith illustrative [0x01#8, 0x64#8, 0x78#8, 0x56#8, 0x34#8, 0x12#8, 0x1E#8, 0x7F#8]
        (after (bootEnterWith illustrative bound)))
      = some (0x0060#16, 0x12345678#32, [0x78#8, 0x56#8, 0x34#8, 0x12#8])
    ∧ look (fun t => (t.status, t.rspEcho, t.outlen))
      (rxFrameWith illustrative [0x01#8, 0x64#8, 0x79#8, 0x56#8, 0x34#8, 0x12#8, 0x1F#8, 0x83#8]
        (after (bootEnterWith illustrative bound)))
      = some (0x0066#16, 0x12345679#32, 4#8) := by decide +kernel

/-- V-CMD-22 and V-CMD-23: what the READ_CHUNK decoder does with a matching echo and with another. -/
theorem test_readChunkDecoder :
    look (fun t => (t.code, t.rspEcho, t.echoMatch))
      (rspReadChunk ([0x00#8, 0x10#8, 0x00#8, 0x08#8] ++ countUp 0 128) { bound with pendFaddr := 0x08001000#32 })
      = some (.ok, 0x08001000#32, true)
    ∧ look (fun t => (t.code, t.rspEcho, t.echoMatch))
      (rspReadChunk ([0x00#8, 0x11#8, 0x00#8, 0x08#8] ++ countUp 0 128) { bound with pendFaddr := 0x08001000#32 })
      = some (.ok, 0x08001100#32, false) := by decide

/-- R157 by R79: a whole READ_CHUNK response with no exchange open is discarded byte by byte. -/
theorem test_readChunkResponse :
    look (fun t => (t.status, t.rxlen, t.events.length))
      (exec (.readChunkResponse 0x01#8 0x08001000#32 (countUp 0 128) 0x69C4#16) bound)
      = some (0x002D#16, 0#8, 136) := by decide +kernel

/-- V-CMD-25, and V-CMD-30: a valid frame from address 2. -/
theorem test_bootExitResponse :
    look State.status (exec (.bootExitResponse 0x01#8 0x0A80#16) (after (exec .reqBootExit bound))) = some 0x0060#16
    ∧ look State.status (exec (.bootExitResponse 0x02#8 0xFA80#16) (after (exec .reqBootExit bound)))
      = some 0x0023#16 := by decide +kernel

/-- V-CMD-27 and V-CMD-28, with the illustrative success set. -/
theorem test_writeChunkResponse :
    look (fun t => (t.status, t.rspStatus))
      (rxFrameWith illustrative
        [0x01#8, 0x67#8, 0x00#8, 0x10#8, 0x00#8, 0x08#8, 0x80#8, 0x00#8, 0x00#8, 0x00#8, 0x76#8, 0x30#8]
        { midWrite with rxlen := 0#8 })
      = some (0x01E0#16, 0x00000080#32)
    ∧ look (fun t => (t.status, t.rspStatus))
      (rxFrameWith illustrative
        [0x01#8, 0x67#8, 0x00#8, 0x10#8, 0x00#8, 0x08#8, 0x05#8, 0x00#8, 0x00#8, 0x00#8, 0x5F#8, 0x3C#8]
        { midWrite with rxlen := 0#8 })
      = some (0x0167#16, 0x00000005#32) := by decide +kernel

/-- V-CMD-31, its fifth byte dropped by the decoder's answer: a frame that is no command frame is fed all the same. -/
theorem test_undecoded_frame :
    look State.status (runTransfer (.lineIn [0x01#8, 0xE6#8, 0x01#8, 0xAB#8, 0xA0#8]) (after (exec .reqBootExit bound)))
      = some 0x002D#16 := by decide +kernel

/-! ### Register reads, reset, the step -/

/-- V-REG-03, V-REG-04 and V-REG-14 to V-REG-19, in an open exchange of V-CMD-03. -/
theorem test_memRead :
    memRead midExit 0x004 1 = .ok 0x01#32 ∧ memRead midExit 0x005 1 = .ok 0x04#32
    ∧ memRead midExit 0x102 1 = .ok 0x80#32 ∧ memRead midExit 0x104 1 = .error (.unspecifiedByte 0x104)
    ∧ memRead midExit 0x300 1 = .error (.unspecifiedByte 0x300)
    ∧ memRead midExit 0x001 1 = .error (.readRefused 0x001 1) ∧ memRead midExit 0x002 1 = .error (.readRefused 0x002 1)
    ∧ memRead midExit 0x00A 1 = .error (.readRefused 0x00A 1)
    ∧ memRead midExit 0x100 2 = .error (.readRefused 0x100 2) := ⟨rfl, rfl, rfl, rfl, rfl, rfl, rfl, rfl, rfl⟩

/-- V-REG-20. -/
theorem test_memWrite :
    step { bound with inbox := [.memWrite 0x004 1 0x05] } = .fault (.writeRefused 0x004 1) := rfl

/-- R240: an open exchange is lost. -/
theorem test_reset :
    look (fun t => (t.pendValid, t.addr, t.crc, t.status)) (step { midExit with inbox := [.reset] })
      = some (false, 0x00#8, 0xFFFF#16, 0x0000#16) := by decide +kernel

/-- The first step after reset runs the word that was placed. -/
theorem test_withFetchWord :
    look (fun t => (t.code, t.crc, t.inbox)) (step (State.withFetchWord .reset 8 0x02)) = some (.ok, 0x40BF#16, []) := by
  decide +kernel

/-! ### The assembler -/

/-- P1, P2 and R78: literals, byte strings, texts, pseudo-operations. -/
theorem test_assemble :
    assemble ["SET_ADDR 0x0A".toList, "RX_FRAME [01, 66]".toList, "CRC_ASCII \"12\"".toList] = .ok
      [.message [0x10#8, 0x0A#8], .message [0x40#8, 0x01#8], .message [0x40#8, 0x66#8],
        .message [0x03#8, 0x02#8, 0x00#8, 0x31#8, 0x32#8]]
    ∧ assembleLine "FRAME_ENCODE 1, 0x66, x\"0A\"".toList = .ok [.frameEncode 1#8 0x66#8 [0x0A#8]]
    ∧ assembleLine "CRC_SEQ [31, 32]".toList = .ok [.crcInit, .crcByte 0x31#8, .crcByte 0x32#8] := by decide +kernel

/-- R78: what does not fit is an assembly error. -/
theorem test_assemble_errors :
    assembleLine "SET_ADDR 256".toList = .error .operandDoesNotFit
    ∧ assembleLine "REQ_WRITE_CHUNK 0, [00]".toList = .error .byteStringLength
    ∧ assembleLine "NOP".toList = .error .unknownMnemonic := by decide +kernel


/-! ### Witnesses: for every statement with hypotheses, a concrete state and operands that meet them together -/

/-- A message of a code that is none of its good forms. -/
def someMalformed (code : Byte) (good : List Byte → Prop) : Prop := ∃ m, m.head? = some code ∧ ¬ good m

/-- A state of each kind that the operations tell apart. -/
theorem witness_idle_and_open : State.reset.pendValid = false ∧ midExit.pendValid = true := ⟨rfl, rfl⟩

/-- The 8-byte frame of V-CRC-20, with its first and its last bit. -/
theorem witness_FlippedBitsChangeChecksum :
    let f : List Byte := [0x01#8, 0x64#8, 0x78#8, 0x56#8, 0x34#8, 0x12#8, 0x1E#8, 0x7F#8]
    checksum f = 0x0000#16 ∧ f.length = 8 ∧ 0 < 8 * f.length ∧ 63 < 8 * f.length ∧ (0 : Nat) ≠ 63 := by decide +kernel

theorem witness_CrcInitRestartsCrc :
    someMalformed 0x01#8 (fun m => m = [0x01#8]) ∧ midExit.pendValid = true ∧ State.reset.pendValid = false :=
  ⟨⟨[0x01#8, 0x00#8], by decide, by decide⟩, rfl, rfl⟩

theorem witness_CrcByteAdvancesCrc :
    someMalformed 0x02#8 (fun m => ∃ b, m = [0x02#8, b]) ∧ midExit.pendValid = true ∧ State.reset.pendValid = false :=
  ⟨⟨[0x02#8], by decide, by simp⟩, rfl, rfl⟩

theorem witness_CrcBlockComputesChecksum :
    ([] : List Byte).length ≤ 65535 ∧ (∀ b : Byte, (List.replicate 65535 b).length ≤ 65535)
    ∧ someMalformed 0x03#8 (fun m => ∃ bs : List Byte, bs.length ≤ 65535 ∧
        m = 0x03#8 :: (le16 (BitVec.ofNat 16 bs.length) ++ bs))
    ∧ midExit.pendValid = true ∧ State.reset.pendValid = false :=
  ⟨by decide, fun b => by rw [List.length_replicate], ⟨[0x03#8], by decide, by simp [le16]⟩, rfl, rfl⟩

theorem witness_SetAddrBindsLegalAddress :
    someMalformed 0x10#8 (fun m => ∃ a, m = [0x10#8, a]) ∧ midExit.pendValid = true
    ∧ State.reset.pendValid = false ∧ 1 ≤ (0x01#8).toNat ∧ (0x01#8).toNat ≤ 127 ∧ 1 ≤ (0x7F#8).toNat
    ∧ (0x7F#8).toNat ≤ 127 ∧ (0x00#8).toNat = 0 ∧ 128 ≤ (0x80#8).toNat :=
  ⟨⟨[0x10#8], by decide, by simp⟩, by decide⟩

theorem witness_AbortEndsExchange :
    someMalformed 0x11#8 (fun m => m = [0x11#8]) ∧ State.reset.pendValid = false ∧ midExit.pendValid = true :=
  ⟨⟨[0x11#8, 0x11#8], by decide, by decide⟩, rfl, rfl⟩

/-- Each check of R121 fails first on one of these, and the last passes. -/
theorem witness_UnframeReportsFirstFailure :
    [0x01#8, 0x66#8, 0x80#8].length < 4
    ∧ 4 ≤ [0x02#8, 0x66#8, 0x80#8, 0xFA#8].length ∧ [0x02#8, 0x66#8, 0x80#8, 0xFA#8][0]? ≠ some 0x01#8
    ∧ [0x01#8, 0x67#8, 0x80#8, 0x0A#8][0]? = some 0x01#8 ∧ [0x01#8, 0x67#8, 0x80#8, 0x0A#8][1]? ≠ some 0x66#8
    ∧ [0x01#8, 0x66#8, 0x80#8, 0x0B#8][0]? = some 0x01#8 ∧ [0x01#8, 0x66#8, 0x80#8, 0x0B#8][1]? = some 0x66#8
    ∧ checksum [0x01#8, 0x66#8, 0x80#8, 0x0B#8] ≠ 0x0000#16
    ∧ [0x01#8, 0x66#8, 0x80#8, 0x0A#8][0]? = some 0x01#8 ∧ [0x01#8, 0x66#8, 0x80#8, 0x0A#8][1]? = some 0x66#8
    ∧ checksum [0x01#8, 0x66#8, 0x80#8, 0x0A#8] = 0x0000#16 := by decide +kernel

theorem witness_FrameEncodePacksTxbuf :
    (List.replicate 255 0x5A#8).length ≤ 255
    ∧ someMalformed 0x20#8 (fun m => ∃ (a c : Byte) (p : List Byte), p.length ≤ 255 ∧
        m = 0x20#8 :: a :: c :: BitVec.ofNat 8 p.length :: p)
    ∧ midExit.pendValid = true ∧ State.reset.pendValid = false
    ∧ (0x00#8).toNat < 1 ∧ 127 < (0x80#8).toNat ∧ 1 ≤ (0x7F#8).toNat ∧ (0x7F#8).toNat ≤ 127
    ∧ 132 < (List.replicate 133 0x5A#8).length ∧ (List.replicate 132 0x5A#8).length ≤ 132 :=
  ⟨by decide, ⟨[0x20#8], by decide, by simp⟩, by decide⟩

theorem witness_FrameDecodeChecksAndDelivers :
    (List.replicate 255 0x5A#8).length ≤ 255
    ∧ someMalformed 0x21#8 (fun m => ∃ (ea ec : Byte) (f : List Byte), f.length ≤ 255 ∧
        m = 0x21#8 :: ea :: ec :: BitVec.ofNat 8 f.length :: f)
    ∧ midExit.pendValid = true ∧ State.reset.pendValid = false
    ∧ [0x01#8, 0x66#8, 0x80#8].length < 4 ∧ 136 < (List.replicate 137 0x00#8).length
    ∧ 4 ≤ [0x01#8, 0x66#8, 0x80#8, 0x0B#8].length ∧ (List.replicate 136 0x00#8).length ≤ 136
    ∧ (∃ e, unframe [0x01#8, 0x66#8, 0x80#8, 0x0B#8] 0x01#8 0x66#8 = .error e)
    ∧ (∃ p, unframe [0x01#8, 0x66#8, 0x80#8, 0x0A#8] 0x01#8 0x66#8 = .ok p) :=
  ⟨by decide, ⟨[0x21#8], by decide, by simp⟩, rfl, rfl, by decide, by decide, by decide, by decide,
    ⟨.checksumInvalid, rfl⟩, ⟨[], rfl⟩⟩

theorem witness_EncodeThenDecodeReturnsPayload :
    1 ≤ (0x7F#8).toNat ∧ (0x7F#8).toNat ≤ 127 ∧ (List.replicate 132 0x5A#8).length ≤ 132
    ∧ State.reset.pendValid = false := by decide

/-- The flipped bits 0, 8, 16 and 31 of a 4-byte frame: one of each code. -/
theorem witness_OneFlippedBitIsReported :
    1 ≤ (0x01#8).toNat ∧ (0x01#8).toNat ≤ 127 ∧ ([] : List Byte).length ≤ 132 ∧ State.reset.pendValid = false
    ∧ 0 / 8 = 0 ∧ 8 / 8 = 1 ∧ 31 < 8 * (([] : List Byte).length + 4) := by decide

theorem witness_RequestsCheckPendingThenAddress :
    isRequest .reqBootExit = true ∧ midExit.pendValid = true ∧ State.reset.pendValid = false
    ∧ State.reset.addr = 0x00#8 := ⟨rfl, rfl, rfl, rfl⟩

theorem witness_BootEnterRequestIssued :
    someMalformed 0x30#8 (fun m => m = [0x30#8]) ∧ midExit.pendValid = true ∧ State.reset.addr = 0x00#8
    ∧ bound.pendValid = false ∧ bound.addr ≠ 0x00#8 :=
  ⟨⟨[0x30#8, 0x00#8], by decide, by decide⟩, rfl, rfl, rfl, by decide⟩

theorem witness_ReadChunkRequestIssued :
    someMalformed 0x31#8 (fun m => ∃ fa, m = 0x31#8 :: le32 fa) ∧ midExit.pendValid = true
    ∧ State.reset.addr = 0x00#8 ∧ bound.pendValid = false ∧ bound.addr ≠ 0x00#8 :=
  ⟨⟨[0x31#8, 0x00#8, 0x10#8, 0x00#8], by decide, by simp [le32]⟩, rfl, rfl, rfl, by decide⟩

theorem witness_BootExitRequestIssued :
    someMalformed 0x32#8 (fun m => m = [0x32#8]) ∧ midExit.pendValid = true ∧ State.reset.addr = 0x00#8
    ∧ bound.pendValid = false ∧ bound.addr ≠ 0x00#8 :=
  ⟨⟨[0x32#8, 0x00#8], by decide, by decide⟩, rfl, rfl, rfl, by decide⟩

theorem witness_WriteChunkRequestIssued :
    someMalformed 0x33#8 (fun m => ∃ (fa : Word32) (d : List Byte), d.length = 128 ∧ m = 0x33#8 :: (le32 fa ++ d))
    ∧ midExit.pendValid = true ∧ State.reset.addr = 0x00#8 ∧ bound.pendValid = false ∧ bound.addr ≠ 0x00#8
    ∧ (countUp 0 128).length = 128 :=
  ⟨⟨[0x33#8], by decide, by simp [le32]⟩, rfl, rfl, rfl, by decide, by decide⟩

/-- The first byte of a response, and the last that is not the final one. -/
theorem witness_RxByteAccumulates :
    someMalformed 0x40#8 (fun m => ∃ b, m = [0x40#8, b]) ∧ State.reset.pendValid = false
    ∧ (let s : State := { midExit with rxlen := 0#8 }
       s.pendValid = true ∧ s.rxlen.toNat + 1 < s.pendRsplen.toNat ∧ s.rxlen = 0#8)
    ∧ (let s : State := { midExit with rxlen := 2#8 }
       s.pendValid = true ∧ s.rxlen.toNat + 1 < s.pendRsplen.toNat ∧ s.rxlen ≠ 0#8) :=
  ⟨⟨[0x40#8], by decide, by simp⟩, rfl, by decide, by decide⟩

/-- V-CMD-33's kind of end: the last CRC byte is wrong. -/
theorem witness_CompletionReportsFrameError :
    midExit.Inv ∧ midExit.pendValid = true ∧ midExit.rxlen.toNat + 1 = midExit.pendRsplen.toNat
    ∧ unframe (midExit.rxBytes ++ [0x0B#8]) midExit.addr midExit.pendCmd = .error .checksumInvalid :=
  ⟨midExit_inv, rfl, rfl, rfl⟩

theorem witness_BootEnterResponseDecoded :
    completesWith midEnter 0x7F#8 [0x78#8, 0x56#8, 0x34#8, 0x12#8] ∧ midEnter.pendCmd = 100#8 :=
  ⟨⟨midEnter_inv, rfl, rfl, rfl⟩, rfl⟩

theorem witness_ReadChunkResponseDecoded :
    completesWith midRead 0x69#8 ([0x00#8, 0x10#8, 0x00#8, 0x08#8] ++ countUp 0 128) ∧ midRead.pendCmd = 101#8 :=
  ⟨⟨midRead_inv, rfl, by decide +kernel, by decide +kernel⟩, rfl⟩

theorem witness_BootExitResponseDecoded : completesWith midExit 0x0A#8 [] ∧ midExit.pendCmd = 102#8 :=
  ⟨⟨midExit_inv, rfl, rfl, rfl⟩, rfl⟩

theorem witness_WriteChunkResponseDecoded :
    completesWith midWrite 0xF0#8 [0x00#8, 0x10#8, 0x00#8, 0x08#8, 0x00#8, 0x00#8, 0x00#8, 0x00#8]
    ∧ midWrite.pendCmd = 103#8 :=
  ⟨⟨midWrite_inv, rfl, rfl, by decide +kernel⟩, rfl⟩

/-- V-CMD-32: one surplus byte after completion. -/
theorem witness_SurplusBytesDiscarded :
    State.reset.pendValid = false
    ∧ (midExit.Inv ∧ midExit.pendValid = true ∧ midExit.rxlen.toNat + [0x0A#8].length = midExit.pendRsplen.toNat)
    ∧ (∃ t, execAll ([0x0A#8].map .rxByte) midExit = .next t ∧ t.pendValid = false) ∧ [0x55#8] ≠ [] :=
  ⟨rfl, ⟨midExit_inv, rfl, rfl⟩, ⟨_, rfl, rfl⟩, by decide⟩

theorem witness_ShortResponseKeepsWaiting :
    let s : State := { midExit with rxlen := 1#8 }
    [0x66#8, 0x80#8] ≠ [] ∧ s.pendValid = true ∧ s.rxlen.toNat + [0x66#8, 0x80#8].length < s.pendRsplen.toNat := by
  decide

theorem witness_ExchangeEndsByCompletionOrAbort :
    midExit.Inv ∧ midExit.pendValid = true ∧ isOperation .abort = true ∧ isOperation (.rxByte 0x0A#8) = true
    ∧ (∃ t, exec .abort midExit = .next t ∧ t.pendValid = false)
    ∧ (∃ t, exec (.rxByte 0x0A#8) midExit = .next t ∧ t.pendValid = false) :=
  ⟨midExit_inv, rfl, rfl, rfl, ⟨_, rfl, rfl⟩, ⟨_, rfl, rfl⟩⟩

theorem witness_RequestsLeaveTheirFrame :
    bound.pendValid = false ∧ bound.addr ≠ 0x00#8 ∧ (∃ t, exec .reqBootEnter bound = .next t)
    ∧ (∃ t, exec (.reqReadChunk 0xFFFFFFFF#32) bound = .next t) ∧ (∃ t, exec .reqBootExit bound = .next t)
    ∧ (countUp 0 128).length = 128 ∧ (∃ t, exec (.reqWriteChunk 0#32 (countUp 0 128)) bound = .next t) :=
  ⟨rfl, by decide, ⟨_, rfl⟩, ⟨_, rfl⟩, ⟨_, rfl⟩, by decide, ⟨_, rfl⟩⟩

theorem witness_BootEnterFrameCompletes : awaits { midEnter with rxlen := 0#8 } 100#8 8 := ⟨rfl, rfl, rfl, rfl⟩

theorem witness_ReadChunkFrameCompletes :
    (countUp 0 128).length = 128 ∧ awaits { midRead with rxlen := 0#8 } 101#8 136 := ⟨by decide, rfl, rfl, rfl, rfl⟩

theorem witness_BootExitFrameCompletes : awaits { midExit with rxlen := 0#8 } 102#8 4 := ⟨rfl, rfl, rfl, rfl⟩

theorem witness_WriteChunkFrameCompletes : awaits { midWrite with rxlen := 0#8 } 103#8 12 := ⟨rfl, rfl, rfl, rfl⟩

/-- A response row with another address than the awaited one (V-CMD-30). -/
theorem witness_ResponseFramesAreFedByteByByte :
    encode (.bootExitResponse 0x02#8 0xFA80#16) = .lineIn [0x02#8, 0x66#8, 0x80#8, 0xFA#8]
    ∧ State.reset.pendValid = false ∧ (countUp 0 128).length = 128 := ⟨rfl, rfl, by decide⟩

theorem witness_DecodeOfEncode :
    (Instr.writeChunkRequest 0x01#8 0#32 (countUp 0 128) 0#16).wellFormed = true
    ∧ (Instr.frameEncode 0x01#8 0x00#8 (List.replicate 255 0#8)).wellFormed = true := by decide

theorem witness_EncodeOfDecode : decode (.lineIn [0x01#8, 0x66#8, 0x80#8, 0x0A#8]) = .ok (.bootExitResponse 0x01#8 0x0A80#16) :=
  rfl

/-- A boundary of each clause. -/
theorem witness_MalformedMessagesRaiseIllegalOp :
    0x99#8 ∉ [0x01#8, 0x02#8, 0x03#8, 0x10#8, 0x11#8, 0x20#8, 0x21#8, 0x30#8, 0x31#8, 0x32#8, 0x33#8, 0x40#8]
    ∧ (0x00#8).toNat = 0x00 ∧ 0x04 ≤ (0x04#8).toNat ∧ (0x0F#8).toNat ≤ 0x0F ∧ 0x12 ≤ (0x12#8).toNat
    ∧ (0x1F#8).toNat ≤ 0x1F ∧ 0x22 ≤ (0x22#8).toNat ∧ (0x2F#8).toNat ≤ 0x2F ∧ 0x34 ≤ (0x34#8).toNat
    ∧ (0x3F#8).toNat ≤ 0x3F ∧ 0x41 ≤ (0x41#8).toNat ∧ 0x41 ≤ (0xFF#8).toNat
    ∧ 0x32#8 ∈ [0x01#8, 0x11#8, 0x30#8, 0x32#8] ∧ [0x00#8].length ≠ 0
    ∧ 0x40#8 ∈ [0x02#8, 0x10#8, 0x40#8] ∧ ([] : List Byte).length ≠ 1
    ∧ [0x00#8, 0x10#8, 0x00#8].length ≠ 4 ∧ (countUp 0 131).length ≠ 132
    ∧ 0x20#8 ∈ [0x20#8, 0x21#8] ∧ [0x01#8, 0x66#8].length < 3
    ∧ [0x01#8, 0x66#8, 0x01#8].length ≠ 3 + (byteAt [0x01#8, 0x66#8, 0x01#8] 2).toNat
    ∧ [0x00#8].length < 2
    ∧ [0x00#8, 0x01#8].length ≠ 2 + (byteAt [0x00#8, 0x01#8] 0).toNat + 256 * (byteAt [0x00#8, 0x01#8] 1).toNat := by
  decide

theorem witness_StepRunsDecodedInstruction :
    (let s : State := { bound with inbox := [.transfer (.message [0x32#8]), .reset] }
     s.inbox = .transfer (.message [0x32#8]) :: [.reset] ∧ decode (.message [0x32#8]) = .ok .reqBootExit)
    ∧ (let s : State := { bound with inbox := [.transfer (.message [0x99#8])] }
       s.inbox = .transfer (.message [0x99#8]) :: [] ∧ decode (.message [0x99#8]) = .error (.reservedCode 0x99#8))
    ∧ (let s : State := { midExit with inbox := [.transfer (.lineIn [0x01#8, 0xE6#8]), .reset] }
       s.inbox = .transfer (.lineIn [0x01#8, 0xE6#8]) :: [.reset])
    ∧ State.reset.inbox = [] := ⟨⟨rfl, rfl⟩, ⟨rfl, rfl⟩, rfl, rfl⟩

/-- The first and the last index of each buffer clause, and the ends of each refused range. -/
theorem witness_RegisterMapReads :
    0 < 136 ∧ 0 < midExit.txlen.toNat ∧ 3 < midExit.txlen.toNat ∧ midExit.txlen.toNat ≤ 4 ∧ 135 < 136
    ∧ midExit.txlen.toNat ≤ 135 ∧ 2 < midExit.rxlen.toNat ∧ midExit.rxlen.toNat ≤ 3 ∧ midExit.rxlen.toNat ≤ 135
    ∧ (let s : State := { bound with outlen := 132#8 }
       0 < s.outlen.toNat ∧ 131 < s.outlen.toNat ∧ 131 < 132)
    ∧ bound.outlen.toNat ≤ 0 ∧ bound.outlen.toNat ≤ 131 ∧ 0x018 ≤ 0x0FF ∧ 0x188 ≤ 0x1FF ∧ 0x288 ≤ 0x2FF
    ∧ 0x384 ≤ 0x3FF := by decide

theorem witness_OnlyAdmittedReadsAnswer :
    (0x014, 4) ∈ [(0x000, 2), (0x002, 2), (0x004, 1), (0x005, 1), (0x006, 1), (0x007, 1), (0x008, 1), (0x009, 1),
      (0x00C, 4), (0x010, 4), (0x014, 4)]
    ∧ 0x103 < 0x100 + min midExit.txlen.toNat 136 ∧ ¬ 0x104 < 0x100 + min midExit.txlen.toNat 136
    ∧ 0x202 < 0x200 + min midExit.rxlen.toNat 136 ∧ ¬ 0x203 < 0x200 + min midExit.rxlen.toNat 136
    ∧ ¬ 0x300 < 0x300 + min midExit.outlen.toNat 132 := by decide

theorem witness_ReadsHaveNoSideEffects :
    let s : State := { bound with inbox := [.memRead 0x004 1, .memRead 0x004 1] }
    s.inbox = .memRead 0x004 1 :: .memRead 0x004 1 :: [] ∧ memRead s 0x004 1 = .ok 0x01#32 := ⟨rfl, rfl⟩

theorem witness_RefusedAccessesAreModelFaults :
    (let s : State := { bound with inbox := [.memWrite 0x004 1 0x05] }
     s.inbox = .memWrite 0x004 1 0x05 :: [])
    ∧ (let s : State := { bound with inbox := [.memRead 0x00A 1] }
       s.inbox = .memRead 0x00A 1 :: [] ∧ memRead s 0x00A 1 = .error (.readRefused 0x00A 1)) := ⟨rfl, rfl, rfl⟩

theorem witness_ResetValues : ({ midExit with inbox := [.reset] } : State).inbox = .reset :: [] := rfl

theorem witness_OperationsAfterReset :
    isOperation .crcInit = true ∧ isRequest .reqBootExit = true
    ∧ 1 ≤ (0x01#8).toNat ∧ (0x01#8).toNat ≤ 127 ∧ 1 ≤ (0x7F#8).toNat ∧ (0x7F#8).toNat ≤ 127
    ∧ (List.replicate 132 0#8).length ≤ 132 :=
  ⟨rfl, rfl, by decide⟩

theorem witness_StepKeepsInvariant : midExit.Inv ∧ ∃ t, step midExit = .next t := ⟨midExit_inv, ⟨_, rfl⟩⟩

theorem witness_NoInstructionTraps : midExit.Inv ∧ (Instr.rxByte 0x0A#8).wellFormed = true := ⟨midExit_inv, rfl⟩

/-- A state with the invariant in which a step stops. -/
theorem witness_OnlyRegisterAccessesStop :
    ∃ s : State, s.Inv ∧ step s = .fault (.readRefused 0x00A 1) :=
  ⟨{ bound with inbox := [.memRead 0x00A 1] }, by constructor <;> decide, rfl⟩

theorem witness_EveryOperationAnswersOnce :
    isOperation (.rxByte 0x0A#8) = true ∧ ∃ t, exec (.rxByte 0x0A#8) midExit = .next t := ⟨rfl, ⟨_, rfl⟩⟩

theorem witness_PendingExchangeIsProtected :
    midExit.pendValid = true ∧ isOperation (.setAddr 0x02#8) = true ∧ Instr.setAddr 0x02#8 ≠ .abort
    ∧ (∃ t, exec (.rxByte 0x0A#8) midExit = .next t) ∧ decode (.message [0x99#8]) = .error (.reservedCode 0x99#8) :=
  ⟨rfl, rfl, by decide, ⟨_, rfl⟩, rfl⟩

theorem witness_OnlySetAddrWritesAddr :
    (∃ t, exec .reqBootExit bound = .next t) ∧ ∀ a, Instr.reqBootExit ≠ .setAddr a := ⟨⟨_, rfl⟩, by simp⟩

theorem witness_OnlyRequestsOpenExchanges :
    (∃ t, exec (.rxByte 0x80#8) { midExit with rxlen := 1#8 } = .next t ∧ t.pendValid = true)
    ∧ isRequest (.rxByte 0x80#8) = false := ⟨⟨_, rfl, rfl⟩, rfl⟩

theorem witness_OnlyEncodersWriteTxbuf :
    (∃ t, exec (.rxByte 0x0A#8) midExit = .next t) ∧ isRequest (.rxByte 0x0A#8) = false
    ∧ ∀ a c p, Instr.rxByte 0x0A#8 ≠ .frameEncode a c p := ⟨⟨_, rfl⟩, rfl, by simp⟩

/-- V-CMD-26 in an exchange that finds another status word. -/
def midWriteAgain : State := { midWrite with rspStatus := 0x05#32 }

theorem midWriteAgain_inv : midWriteAgain.Inv := by
  constructor <;> decide +kernel

/-- Whatever the success sentinels are, its last byte leaves the received status. -/
theorem midWriteAgain_status : ∃ t, exec (.rxByte 0xF0#8) midWriteAgain = .next t ∧ t.rspStatus = 0x00000000#32 := by
  let s := midWriteAgain.taken 0xF0#8
  obtain ⟨t, h⟩ := decodeResponse_answers Config.hardware (payloadOf s.rxBytes) (s.delivered (payloadOf s.rxBytes))
    (.inr (.inr (.inr rfl)))
  refine ⟨t, h, ?_⟩
  rcases decodeResponse_next h with ⟨hc, -⟩ | ⟨hc, -⟩ | ⟨hc, -⟩ | ⟨-, c, -, rfl⟩
  · exact absurd hc (by decide)
  · exact absurd hc (by decide)
  · exact absurd hc (by decide)
  · show u32le (payloadOf s.rxBytes) 4 = 0x00000000#32
    decide +kernel

/-- One instruction that receives nothing; one byte out of an exchange, also after a passed completion; BOOT_EXIT's last
byte; a byte before the last; and the last byte of a READ_CHUNK and of a WRITE_CHUNK response, which change each a word. -/
theorem witness_OnlyCompletionWritesResponseWords :
    ((∃ t, exec .abort midExit = .next t) ∧ isReception .abort = false)
    ∧ (let s : State := { bound with rspValid := true }
       (∃ t, exec (.rxByte 0x01#8) s = .next t) ∧ s.pendValid = false)
    ∧ ((∃ t, exec (.rxByte 0x0A#8) midExit = .next t) ∧ midExit.pendCmd = 102#8 ∧ midExit.pendCmd ≠ 103#8)
    ∧ (∃ t, exec (.rxByte 0x80#8) { midExit with rxlen := 2#8 } = .next t ∧ t.rspValid = false)
    ∧ (midRead.Inv ∧ ∃ t, exec (.rxByte 0x69#8) midRead = .next t ∧ t.rspEcho ≠ midRead.rspEcho)
    ∧ (midWriteAgain.Inv ∧ ∃ t, exec (.rxByte 0xF0#8) midWriteAgain = .next t ∧ t.rspStatus ≠ midWriteAgain.rspStatus) :=
  ⟨⟨⟨_, rfl⟩, rfl⟩, ⟨⟨_, rfl⟩, rfl⟩, ⟨⟨_, rfl⟩, rfl, by decide⟩, ⟨_, rfl, rfl⟩,
    ⟨midRead_inv, (look_some (show look State.rspEcho _ = some 0x08001000#32 by decide +kernel)).imp
      fun _ h => ⟨h.1, by rw [h.2]; decide⟩⟩,
    ⟨midWriteAgain_inv, midWriteAgain_status.imp fun _ h => ⟨h.1, by rw [h.2]; decide⟩⟩⟩

theorem witness_CrcSequenceEqualsBlock :
    State.reset.pendValid = false ∧ (∃ t, execAll (.crcInit :: [0x31#8].map .crcByte) State.reset = .next t)
    ∧ ∃ u, exec (.crcBlock [0x31#8]) State.reset = .next u := ⟨rfl, ⟨_, rfl⟩, ⟨_, rfl⟩⟩

/-- The last value or length that fits and the first that does not, for each field of R78 and R79. -/
theorem witness_AssemblerExpandsAndRejects :
    (255 < 2 ^ 8 ∧ ¬ 256 < 2 ^ 8 ∧ 4294967295 < 2 ^ 32 ∧ 2 ^ 32 ≤ 4294967296)
    ∧ ((countUp 0 128).length = 128 ∧ (List.replicate 127 0).length ≠ 128 ∧ (List.replicate 129 0).length ≠ 128
      ∧ (256 :: List.replicate 127 0).length = 128 ∧ ∃ n ∈ 256 :: List.replicate 127 0, ¬ n < 2 ^ 8)
    ∧ ((List.replicate 255 0x5A#8).length ≤ 255 ∧ 255 < (List.replicate 256 0x5A#8).length)
    ∧ (∀ b : Byte, (List.replicate 65535 b).length ≤ 65535 ∧ 65535 < (List.replicate 65536 b).length)
    ∧ (∃ n ∈ [0, 256], ¬ n < 2 ^ 8)
    ∧ ((∀ c ∈ ['\x7f'], c.toNat < 128) ∧ ['\x7f'].length ≤ 65535
      ∧ ∃ c ∈ ['1', '\x80'], 128 ≤ c.toNat)
    ∧ ((∀ c ∈ List.replicate 65536 '1', c.toNat < 128) ∧ 65535 < (List.replicate 65536 '1').length) := by
  refine ⟨by decide, by decide, by decide, fun b => ?_, by decide, by simp, fun c hc => ?_, ?_⟩
  · simp only [List.length_replicate]; decide
  · rw [List.eq_of_mem_replicate hc]; decide
  · rw [List.length_replicate]; decide

end Sys2Proof.Tests
end

section
/-! PROOFS. Reset (R34, R240): what a step that performs a reset leaves, and that no buffer byte can be read then. -/

namespace Sys2Proof.Machine

/-- A reset that is the host's oldest action gives the reset state; only the inbox and the history go on (R240). -/
theorem step_reset {s : State} {rest : List HostAction} (h : s.inbox = .reset :: rest) :
    step s = .next { State.reset with inbox := rest, events := .wasReset :: s.events } := by
  simp only [step, h]
  rfl

/-- STATUS reads 0x0000 when the code is OK, no exchange is open, no address is bound and no flag is set (R23, R32). -/
theorem State.status_eq_zero {s : State} (hcode : s.code = .ok) (haddr : s.addr = 0x00#8)
    (hpend : s.pendValid = false) (hrsp : s.rspValid = false) (hwrite : s.writeOk = false)
    (hecho : s.echoMatch = false) : s.status = 0x0000#16 := by
  simp only [State.status, State.addrValid, State.statusPend, hcode, haddr, hpend, hrsp, hwrite, hecho]
  decide

/-- When all three buffers are empty, whichever buffer an offset lies in has length 0. -/
theorem bufferAt_length_of_empty {s : State} {addr : Nat} {r : Nat × Nat × Nat}
    (htx : s.txlen = 0#8) (hrx : s.rxlen = 0#8) (hout : s.outlen = 0#8) (hr : bufferAt s addr = some r) :
    r.2.2 = 0 := by
  have hmem : r ∈ bufferMap s := List.mem_of_find?_eq_some hr
  simp only [bufferMap, htx, hrx, hout, List.mem_cons, List.not_mem_nil, or_false] at hmem
  rcases hmem with rfl | rfl | rfl <;> rfl

/-- When all three buffers are empty, no read above the registers is admitted, of any width (R33, R55). -/
theorem memRead_error_of_buffers_empty {s : State} {addr : Nat} (n : Nat)
    (htx : s.txlen = 0#8) (hrx : s.rxlen = 0#8) (hout : s.outlen = 0#8) (h : 0x014 < addr) :
    ∃ e, memRead s addr n = .error e := by
  rw [memRead_of_no_row (registerMap_above n h)]
  cases hb : bufferAt s addr with
  | none => exact ⟨_, rfl⟩
  | some r =>
    have hlen : r.2.2 ≤ addr - r.1 := by
      rw [bufferAt_length_of_empty htx hrx hout hb]
      exact Nat.zero_le _
    by_cases hn : n = 1
    · exact ⟨.unspecifiedByte addr, by simp [hn, hlen]⟩
    · exact ⟨.readRefused addr n, by simp [hn]⟩

/-- Settles O47: both states are `State.reset` but for the inbox and the history, which neither a register nor a read
depends on. -/
theorem resetValues : Obligations.ResetValues := by
  intro s rest hs
  refine ⟨_, step_reset hs, fun u hu => ?_⟩
  have hshape : ∃ inbox events, u = { State.reset with inbox := inbox, events := events } := by
    rcases hu with rfl | rfl
    · exact ⟨_, _, rfl⟩
    · exact ⟨[], [], rfl⟩
  obtain ⟨inbox, events, rfl⟩ := hshape
  exact ⟨rfl, rfl, State.status_eq_zero rfl rfl rfl rfl rfl rfl, rfl, rfl, rfl, rfl, rfl, rfl, rfl, rfl, rfl,
    fun addr h => memRead_error_of_buffers_empty 1 rfl rfl rfl (by omega)⟩

end Sys2Proof.Machine
end

section
/-! PROOFS. Register reads (20_memory.md section 2): what a read of each row, of each buffer byte and of every other
offset answers (R53, R55), and that a read leaves the block as it was (R56). -/

namespace Sys2Proof.Machine

/-! ### The rows -/

/-- Offset and width of each register of R53 that is no buffer; what the register holds is `registerMap`'s. -/
def registerRows : List (Nat × Nat) :=
  [(0x000, 2), (0x002, 2), (0x004, 1), (0x005, 1), (0x006, 1), (0x007, 1), (0x008, 1), (0x009, 1), (0x00C, 4),
    (0x010, 4), (0x014, 4)]

theorem registerMap_rows (s : State) : (registerMap s).map (fun r => (r.1, r.2.1)) = registerRows := rfl

/-- The search of `memRead` fails exactly when no row has this offset and this width. -/
theorem registerMap_find?_eq_none_iff {s : State} {addr n : Nat} :
    (registerMap s).find? (fun r => r.1 == addr && r.2.1 == n) = none ↔ (addr, n) ∉ registerRows := by
  rw [List.find?_eq_none, ← registerMap_rows s]
  constructor
  · intro h hmem
    obtain ⟨r, hr, hkey⟩ := List.mem_map.mp hmem
    cases hkey
    simpa using h r hr
  · intro h r hr hkey
    exact h (List.mem_map.mpr ⟨r, hr, by simpa using hkey⟩)

theorem memRead_of_row {s : State} {addr n : Nat} (h : (addr, n) ∈ registerRows) :
    ∃ v, memRead s addr n = .ok v := by
  cases hf : (registerMap s).find? (fun r => r.1 == addr && r.2.1 == n) with
  | none => exact absurd h (registerMap_find?_eq_none_iff.mp hf)
  | some r => exact ⟨r.2.2, by simp only [memRead, hf]⟩

/-- The reserved offsets below the buffers belong to no row, at any width. -/
theorem not_mem_registerRows_of_reserved {addr : Nat} (n : Nat)
    (h : (0x00A ≤ addr ∧ addr ≤ 0x00B) ∨ 0x014 < addr) : (addr, n) ∉ registerRows := by
  simp only [registerRows, List.mem_cons, List.not_mem_nil, or_false, Prod.mk.injEq]
  omega

/-! ### The buffers -/

theorem above_of_bufferAt_some {s : State} {addr : Nat} {r : Nat × Nat × Nat} (hb : bufferAt s addr = some r) :
    0x014 < addr := by
  by_contra hle
  rw [bufferAt_eq, if_neg (by omega), if_neg (by omega), if_neg (by omega)] at hb
  cases hb

/-- A one-byte read inside a buffer depends only on the buffer's length. -/
theorem memRead_of_buffer {s : State} {addr : Nat} {r : Nat × Nat × Nat} (hb : bufferAt s addr = some r) :
    memRead s addr 1 =
      if r.2.2 ≤ addr - r.1 then .error (.unspecifiedByte addr) else .ok ((Memory.read s.mem addr).setWidth 32) := by
  rw [memRead_of_no_row (registerMap_above 1 (above_of_bufferAt_some hb)), hb]
  rfl

theorem memRead_buffer_below {s : State} {base cap len i : Nat} (hb : bufferAt s (base + i) = some (base, cap, len))
    (hi : i < len) :
    memRead s (base + i) 1 = .ok ((byteAt (Memory.readAll s.mem base len) i).setWidth 32) := by
  rw [memRead_of_buffer hb, if_neg (by simpa using hi), Memory.byteAt_readAll _ _ _ _ hi]

theorem memRead_buffer_beyond {s : State} {base cap len i : Nat} (hb : bufferAt s (base + i) = some (base, cap, len))
    (hi : len ≤ i) : memRead s (base + i) 1 = .error (.unspecifiedByte (base + i)) := by
  rw [memRead_of_buffer hb, if_pos (by simpa using hi)]

theorem bufferAt_tx (s : State) {i : Nat} (h : i < 136) :
    bufferAt s (0x100 + i) = some (0x100, 136, s.txlen.toNat) := by
  rw [bufferAt_eq, if_pos (by omega)]

theorem bufferAt_rx (s : State) {i : Nat} (h : i < 136) :
    bufferAt s (0x200 + i) = some (0x200, 136, s.rxlen.toNat) := by
  rw [bufferAt_eq, if_neg (by omega), if_pos (by omega)]

theorem bufferAt_out (s : State) {i : Nat} (h : i < 132) :
    bufferAt s (0x300 + i) = some (0x300, 132, s.outlen.toNat) := by
  rw [bufferAt_eq, if_neg (by omega), if_neg (by omega), if_pos (by omega)]

/-- An offset outside every row and every buffer is refused, at any width. -/
theorem memRead_unmapped {s : State} {addr n : Nat} (hrow : (addr, n) ∉ registerRows) (hb : bufferAt s addr = none) :
    memRead s addr n = .error (.readRefused addr n) := by
  rw [memRead_of_no_row (registerMap_find?_eq_none_iff.mpr hrow), hb]

/-- Settles O42: the rows compute, each buffer byte goes by the length of its buffer, and the reserved offsets lie in
no row and no buffer. -/
theorem registerMapReads : Obligations.RegisterMapReads := by
  intro s
  refine ⟨rfl, rfl, rfl, rfl, rfl, rfl, rfl, rfl, rfl, rfl, rfl,
    fun i h => memRead_buffer_below (bufferAt_tx s h), fun i h => memRead_buffer_beyond (bufferAt_tx s h),
    fun i h => memRead_buffer_below (bufferAt_rx s h), fun i h => memRead_buffer_beyond (bufferAt_rx s h),
    fun i h => memRead_buffer_below (bufferAt_out s h), fun i h => memRead_buffer_beyond (bufferAt_out s h),
    fun addr n h => memRead_unmapped (not_mem_registerRows_of_reserved n (by omega)) ?_⟩
  rw [bufferAt_eq, if_neg (by omega), if_neg (by omega), if_neg (by omega)]

/-! ### Which reads answer -/

/-- The bytes below their buffer's length, as ranges of offsets (R55). -/
theorem bufferAt_below_length_iff {s : State} {addr : Nat} :
    (∃ r, bufferAt s addr = some r ∧ addr - r.1 < r.2.2) ↔
      (0x100 ≤ addr ∧ addr < 0x100 + min s.txlen.toNat 136)
      ∨ (0x200 ≤ addr ∧ addr < 0x200 + min s.rxlen.toNat 136)
      ∨ (0x300 ≤ addr ∧ addr < 0x300 + min s.outlen.toNat 132) := by
  rw [bufferAt_eq]
  split_ifs with htx hrx hout
  · simp only [Option.some.injEq, exists_eq_left']; omega
  · simp only [Option.some.injEq, exists_eq_left']; omega
  · simp only [Option.some.injEq, exists_eq_left']; omega
  · simp only [false_and, exists_false, false_iff]; omega

/-- Settles O43: a row answers; elsewhere a read of one byte below its buffer's length answers, and every other read is
outside the buffers, wider than a byte, or at or above the length. -/
theorem onlyAdmittedReadsAnswer : Obligations.OnlyAdmittedReadsAnswer := by
  intro s addr n admitted
  constructor
  · rintro (hrow | ⟨rfl, hbyte⟩)
    · exact memRead_of_row hrow
    · obtain ⟨r, hb, hlen⟩ := bufferAt_below_length_iff.mpr hbyte
      exact ⟨_, by rw [memRead_of_buffer hb, if_neg (by omega)]⟩
  · intro hadm
    have hrow : (addr, n) ∉ registerRows := fun h => hadm (.inl h)
    cases hb : bufferAt s addr with
    | none => exact .inl (memRead_unmapped hrow hb)
    | some r =>
      by_cases hn : n = 1
      · subst hn
        have hlen : ¬ addr - r.1 < r.2.2 := fun h => hadm (.inr ⟨rfl, bufferAt_below_length_iff.mp ⟨r, hb, h⟩⟩)
        exact .inr (by rw [memRead_of_buffer hb, if_pos (by omega)])
      · exact .inl (by simp [memRead_of_no_row (registerMap_find?_eq_none_iff.mpr hrow), hb, hn])

/-! ### A read leaves the block as it was -/

/-- What a read answers depends on neither the host's list nor the history. -/
theorem memRead_inbox_events (s : State) (inbox : List HostAction) (events : List Event) (addr n : Nat) :
    memRead { s with inbox := inbox, events := events } addr n = memRead s addr n := rfl

/-- A step that performs an admitted read takes it off the host's list and adds its value to the history; every other
field is kept (R56). -/
theorem step_memRead {s : State} {addr n : Nat} {rest : List HostAction} {v : Word32}
    (h : s.inbox = .memRead addr n :: rest) (hv : memRead s addr n = .ok v) :
    step s = .next { s with inbox := rest, events := .readValue addr n v :: s.events } := by
  simp only [step, h, hostRead, memRead_inbox_events s rest s.events, hv]
  rfl

/-- Settles O44: the step of an admitted read, twice. -/
theorem readsHaveNoSideEffects : Obligations.ReadsHaveNoSideEffects := by
  intro s addr n rest v hs hv
  exact ⟨_, step_memRead hs hv, rfl, step_memRead rfl ((memRead_inbox_events s _ _ addr n).trans hv)⟩

end Sys2Proof.Machine
end

section
/-! PROOFS. Messages that are no instruction (30_encoding.md R74, R75): when the decoder rejects one, and that running it
raises IllegalOp. -/

namespace Sys2Proof.Machine

/-! ### Operation codes -/

/-- Every operation is found by its code, so no two share one (R72). -/
@[simp] theorem opcodeOf_code (o : Opcode) : opcodeOf o.code = some o := by
  cases o <;> rfl

/-- A code of no row of R72 is reserved. -/
theorem opcodeOf_eq_none {op : Byte} (h : op ∉ opcodeTable.map Opcode.code) : opcodeOf op = none := by
  refine List.find?_eq_none.mpr fun o ho hcode => h ?_
  exact List.mem_map.mpr ⟨o, ho, by simpa using hcode⟩

/-- The reserved ranges of R75 hold no code of R72. -/
theorem not_reserved_of_mem_codes : ∀ op ∈ opcodeTable.map Opcode.code,
    ¬ (op.toNat = 0x00 ∨ (0x04 ≤ op.toNat ∧ op.toNat ≤ 0x0F) ∨ (0x12 ≤ op.toNat ∧ op.toNat ≤ 0x1F)
      ∨ (0x22 ≤ op.toNat ∧ op.toNat ≤ 0x2F) ∨ (0x34 ≤ op.toNat ∧ op.toNat ≤ 0x3F) ∨ 0x41 ≤ op.toNat) := by
  decide

/-! ### Lengths of operands -/

/-- The number the count field of F5 holds (R73). -/
theorem u16OfBytes_toNat (b0 b1 : Byte) : (u16OfBytes b0 b1).toNat = b0.toNat + 256 * b1.toNat := by
  have hlow := congrArg BitVec.toNat (u16OfBytes_low b0 b1)
  have hhigh := congrArg BitVec.toNat (u16OfBytes_high b0 b1)
  simp only [BitVec.extractLsb'_toNat, Nat.shiftRight_eq_div_pow] at hlow hhigh
  omega

/-- How many operand bytes a format asks for after the code byte; F4 and F5 say it by a count among the operands
themselves (R71). -/
def operandLength : Format → List Byte → Nat
  | .f0, _ => 0
  | .f1, _ => 1
  | .f2, _ => 4
  | .f3, _ => 132
  | .f4, m => 3 + (byteAt m 2).toNat
  | .f5, m => 2 + (byteAt m 0).toNat + 256 * (byteAt m 1).toNat

/-- Operands that decode have the length of the operation's format. -/
theorem length_eq_of_decodeOperands {o : Opcode} {m : List Byte} {i : Instr} (h : decodeOperands o m = some i) :
    m.length = operandLength o.format m := by
  cases o with
  | crcInit | abort | reqBootEnter | reqBootExit | crcByte | setAddr | rxByte | reqReadChunk =>
    simp only [decodeOperands] at h
    split at h
    · rfl
    · cases h
  | frameEncode | frameDecode | crcBlock =>
    simp only [decodeOperands] at h
    split at h
    · obtain ⟨hcount, -⟩ := Option.ite_none_right_eq_some.mp h
      simp only [Opcode.format, operandLength, byteAt, List.length_cons, List.getD_cons_zero, List.getD_cons_succ,
        hcount, u16OfBytes_toNat]
      omega
    · cases h
  | reqWriteChunk =>
    simp only [decodeOperands] at h
    split at h
    · obtain ⟨hcount, -⟩ := Option.ite_none_right_eq_some.mp h
      exact congrArg (· + 4) hcount
    · cases h

/-! ### Running a message that does not decode -/

/-- A message that does not decode raises IllegalOp, whatever PEND.valid. -/
theorem runTransfer_message_error {m : List Byte} {e : DecodeError} (s : State) (h : decode (.message m) = .error e) :
    runTransfer (.message m) s = .next (answer .illegalOp s) := by
  simp only [runTransfer, h]
  rfl

theorem decode_reservedCode {op : Byte} (rest : List Byte) (h : op ∉ opcodeTable.map Opcode.code) :
    decode (.message (op :: rest)) = .error (.reservedCode op) := by
  simp only [decode, decodeMessage, opcodeOf_eq_none h]

theorem decode_badLength {o : Opcode} {rest : List Byte} (h : rest.length ≠ operandLength o.format rest) :
    decode (.message (o.code :: rest)) = .error (.badLength o.code) := by
  cases hd : decodeOperands o rest with
  | none => simp only [decode, decodeMessage, opcodeOf_code, hd]
  | some i => exact absurd (length_eq_of_decodeOperands hd) h

/-- A message whose first byte is a code of R72 and whose length is not its format's raises IllegalOp. -/
theorem runTransfer_badLength (o : Opcode) {rest : List Byte} (s : State)
    (h : rest.length ≠ operandLength o.format rest) :
    runTransfer (.message (o.code :: rest)) s = .next (answer .illegalOp s) :=
  runTransfer_message_error s (decode_badLength h)

theorem runTransfer_reservedCode {op : Byte} (rest : List Byte) (s : State) (h : op ∉ opcodeTable.map Opcode.code) :
    runTransfer (.message (op :: rest)) s = .next (answer .illegalOp s) :=
  runTransfer_message_error s (decode_reservedCode rest h)

/-- Settles O40: each message fails one of the three checks of R74, so it does not decode. -/
theorem malformedMessagesRaiseIllegalOp : Obligations.MalformedMessagesRaiseIllegalOp := by
  intro s
  refine ⟨rfl, fun op rest hop => runTransfer_reservedCode rest s hop,
    fun op rest hres => runTransfer_reservedCode rest s fun hop => not_reserved_of_mem_codes op hop hres,
    fun op rest hop hlen => ?noOperand, fun op rest hop hlen => ?oneByte,
    fun rest hlen => runTransfer_badLength .reqReadChunk s hlen,
    fun rest hlen => runTransfer_badLength .reqWriteChunk s hlen,
    fun op rest hop hlen => ?frame, fun rest hlen => ?block⟩
  case noOperand =>
    simp only [List.mem_cons, List.not_mem_nil, or_false] at hop
    rcases hop with rfl | rfl | rfl | rfl
    · exact runTransfer_badLength .crcInit s hlen
    · exact runTransfer_badLength .abort s hlen
    · exact runTransfer_badLength .reqBootEnter s hlen
    · exact runTransfer_badLength .reqBootExit s hlen
  case oneByte =>
    simp only [List.mem_cons, List.not_mem_nil, or_false] at hop
    rcases hop with rfl | rfl | rfl
    · exact runTransfer_badLength .crcByte s hlen
    · exact runTransfer_badLength .setAddr s hlen
    · exact runTransfer_badLength .rxByte s hlen
  case frame =>
    have hlen : rest.length ≠ operandLength .f4 rest := by simp only [operandLength]; omega
    simp only [List.mem_cons, List.not_mem_nil, or_false] at hop
    rcases hop with rfl | rfl
    · exact runTransfer_badLength .frameEncode s hlen
    · exact runTransfer_badLength .frameDecode s hlen
  case block =>
    have hlen : rest.length ≠ operandLength .f5 rest := by simp only [operandLength]; omega
    exact runTransfer_badLength .crcBlock s hlen

end Sys2Proof.Machine
end

section
/-! PROOFS. The checksum (40_crc.md section 1): one byte is linear over exclusive or (R104), a sequence followed by its
own checksum has checksum 0 (R102), and a flipped bit changes a checksum by a non-zero word that depends only on how far
the bit stands from the end (R108). -/

namespace Sys2Proof.Machine

/-! ### One byte -/

theorem crcStep_xor (c1 c2 : Word16) (b1 b2 : Byte) :
    crcStep (c1 ^^^ c2) (b1 ^^^ b2) = crcStep c1 b1 ^^^ crcStep c2 b2 := by
  have hargs : (c1 ^^^ c2) ^^^ (b1 ^^^ b2).setWidth 16 = (c1 ^^^ b1.setWidth 16) ^^^ (c2 ^^^ b2.setWidth 16) := by
    rw [BitVec.setWidth_xor]
    ac_rfl
  rw [crcStep, hargs, crcShifts_xor]
  rfl

/-- A register that holds just the byte is cancelled by it. -/
theorem crcStep_self (b : Byte) : crcStep (b.setWidth 16) b = 0#16 := by
  rw [crcStep, BitVec.xor_self, crcShifts_zero]

@[simp] theorem crcStep_zero_byte (c : Word16) : crcStep c 0#8 = crcShifts 8 c := by
  simp [crcStep]

/-- A difference in the register goes on as eight shifts of it. -/
theorem crcStep_xor_register (c d : Word16) (b : Byte) : crcStep (c ^^^ d) b = crcStep c b ^^^ crcShifts 8 d := by
  simpa using crcStep_xor c d b 0#8

/-- A difference in the byte acts as the same difference in the register. -/
theorem crcStep_xor_byte (c : Word16) (b e : Byte) :
    crcStep c (b ^^^ e) = crcStep c b ^^^ crcShifts 8 (e.setWidth 16) := by
  rw [crcStep, BitVec.setWidth_xor, ← BitVec.xor_assoc, crcShifts_xor]
  rfl

/-- Settles O1: a fold over a list is the fold over all but the last byte and then that byte. -/
theorem checksumFoldsCrcStep : Obligations.ChecksumFoldsCrcStep :=
  ⟨rfl, checksum_snoc⟩

/-- Settles O3: `crcStep` is even linear, as the third term is zero. -/
theorem crcStepIsAffine : Obligations.CrcStepIsAffine := by
  have hzero : crcStep 0#16 0#8 = 0#16 := crcStep_self 0#8
  refine ⟨fun c1 c2 b1 b2 => ?_, hzero⟩
  rw [hzero, BitVec.xor_zero, crcStep_xor]

/-- Settles O2: the low byte shifts the register's high byte down, and the high byte then cancels it. -/
theorem checksumResidueIsZero : Obligations.ChecksumResidueIsZero := by
  intro s
  have hshift (c : Word16) : c >>> 8 = (c.extractLsb' 8 8).setWidth 16 := by
    apply BitVec.eq_of_toNat_eq
    simp only [BitVec.toNat_ushiftRight, BitVec.toNat_setWidth, BitVec.extractLsb'_toNat]
    omega
  calc checksum (s ++ le16 (checksum s))
      = crcStep (crcStep (checksum s) ((checksum s).extractLsb' 0 8)) ((checksum s).extractLsb' 8 8) := by
        simp [checksum, le16]
    _ = 0x0000#16 := by rw [crcStep_low_byte, hshift, crcStep_self]

/-! ### A changed byte -/

/-- A difference in the register before a sequence goes on as eight shifts for each byte. -/
theorem foldl_crcStep_xor (s : List Byte) (c d : Word16) :
    s.foldl crcStep (c ^^^ d) = s.foldl crcStep c ^^^ crcShifts (8 * s.length) d := by
  induction s generalizing c d with
  | nil => rfl
  | cons b s ih =>
    rw [List.foldl_cons, crcStep_xor_register, ih, ← crcShifts_add]
    rfl

/-- A difference in byte `i` goes on as eight shifts for that byte and for each one after it. -/
theorem foldl_crcStep_set_xor {s : List Byte} {i : Nat} (hi : i < s.length) (c : Word16) (e : Byte) :
    (s.set i (byteAt s i ^^^ e)).foldl crcStep c
      = s.foldl crcStep c ^^^ crcShifts (8 * (s.length - i)) (e.setWidth 16) := by
  induction s generalizing i c with
  | nil => cases hi
  | cons b s ih =>
    cases i with
    | zero =>
      show s.foldl crcStep (crcStep c (b ^^^ e)) = _
      rw [crcStep_xor_byte, foldl_crcStep_xor, ← crcShifts_add]
      rfl
    | succ i =>
      rw [List.length_cons, Nat.add_sub_add_right]
      exact ih (Nat.lt_of_succ_lt_succ hi) (crcStep c b)

/-! ### Flipped bits -/

@[simp] theorem flipBit_length (f : List Byte) (k : Nat) : (flipBit f k).length = f.length := List.length_set

/-- Bit `r` of a byte comes down to the lowest place in `r` shifts, which meet only zero bits. -/
theorem crcShifts_bit : ∀ r < 8, crcShifts r ((1#8 <<< r).setWidth 16) = 1#16 := by
  decide

/-- A flipped bit changes the checksum by what the one-bit word becomes on the way from that bit to the end. -/
theorem checksum_flipBit {f : List Byte} {k : Nat} (hk : k < 8 * f.length) :
    checksum (flipBit f k) = checksum f ^^^ crcShifts (8 * f.length - k) 1#16 := by
  have hshifts : 8 * (f.length - k / 8) = (8 * f.length - k) + k % 8 := by omega
  rw [checksum, flipBit, foldl_crcStep_set_xor (by omega), hshifts, crcShifts_add,
    crcShifts_bit (k % 8) (Nat.mod_lt k (by decide))]
  rfl

/-- A one-bit word never shifts to zero. -/
theorem crcShifts_one_ne_zero (n : Nat) : crcShifts n 1#16 ≠ 0#16 :=
  fun h => absurd (crcShifts_eq_zero h) (by decide)

/-- The shifts of a one-bit word come back to it after no fewer than 64 steps. -/
theorem crcShifts_one_ne_one : ∀ d < 64, 0 < d → crcShifts d 1#16 ≠ 1#16 := by
  decide

theorem crcShifts_injective (n : Nat) {a b : Word16} (h : crcShifts n a = crcShifts n b) : a = b := by
  have hxor : crcShifts n (a ^^^ b) = 0#16 := by rw [crcShifts_xor, h, BitVec.xor_self]
  exact BitVec.xor_eq_zero_iff.mp (crcShifts_eq_zero hxor)

/-- Two one-bit words less than 64 steps apart never meet. -/
theorem crcShifts_one_ne_of_lt {m n : Nat} (hmn : m < n) (hn : n < m + 64) : crcShifts m 1#16 ≠ crcShifts n 1#16 := by
  intro h
  rw [show n = m + (n - m) by omega, crcShifts_add] at h
  exact crcShifts_one_ne_one (n - m) (by omega) (by omega) (crcShifts_injective m h).symm

/-- Settles O4: the changes of two flipped bits do not cancel, since in 8 bytes they are less than 64 steps apart. -/
theorem flippedBitsChangeChecksum : Obligations.FlippedBitsChangeChecksum := by
  intro f hf
  refine ⟨fun k hk => ?single, fun hlen j k hj hk hjk => ?double⟩
  case single =>
    rw [checksum_flipBit hk, hf, BitVec.zero_xor]
    exact crcShifts_one_ne_zero _
  case double =>
    rw [checksum_flipBit (by rw [flipBit_length]; omega), checksum_flipBit (by omega), hf, BitVec.zero_xor,
      flipBit_length, hlen, Ne, BitVec.xor_eq_zero_iff]
    rcases Nat.lt_or_gt_of_ne hjk with hlt | hlt
    · exact (crcShifts_one_ne_of_lt (by omega) (by omega)).symm
    · exact crcShifts_one_ne_of_lt (by omega) (by omega)

end Sys2Proof.Machine
end

section
/-! PROOFS. The CRC operations (40_crc.md section 2): their messages, their refusal while a request is outstanding, and
what they leave of an idle state (R105, R106, R107). -/

namespace Sys2Proof.Machine

/-! ### Messages -/

theorem runTransfer_of_decode {t : Transfer} {i : Instr} (h : decode t = .ok i) : runTransfer t = exec i := by
  funext s
  simp only [runTransfer, h]

/-- When all operands of the right length are good, every other message of the operation raises IllegalOp. -/
theorem malformedRaises_of_operandLength {o : Opcode} {good : List Byte → Prop}
    (h : ∀ rest : List Byte, rest.length = operandLength o.format rest → good (o.code :: rest)) :
    malformedRaises o.code good := by
  intro m s hhead hbad
  cases m with
  | nil => cases hhead
  | cons op rest =>
    cases hhead
    exact runTransfer_badLength o s fun hlen => hbad (h rest hlen)

/-- A counted byte string reads back (R71, R73). -/
theorem decode_encode_crcBlock {bs : List Byte} (h : bs.length ≤ 65535) :
    decode (encode (.crcBlock bs)) = .ok (.crcBlock bs) := by
  have hcount : bs.length = (BitVec.ofNat 16 bs.length).toNat := by
    rw [BitVec.toNat_ofNat, Nat.mod_eq_of_lt (by omega)]
  have hoperands : decodeOperands .crcBlock (le16 (BitVec.ofNat 16 bs.length) ++ bs) = some (.crcBlock bs) := by
    simp only [le16, List.cons_append, List.nil_append, decodeOperands, u16OfBytes_extract]
    exact if_pos hcount
  have hcode : opcodeOf 0x03#8 = some .crcBlock := opcodeOf_code .crcBlock
  simp only [encode, decode, decodeMessage, hcode, hoperands]

/-- Operands of F5's length are a count, low byte first, and that many bytes. -/
theorem eq_count_append_of_length {rest : List Byte} (h : rest.length = operandLength .f5 rest) :
    ∃ bs : List Byte, bs.length ≤ 65535 ∧ rest = le16 (BitVec.ofNat 16 bs.length) ++ bs := by
  match rest, h with
  | [], h => simp only [operandLength, List.length_nil] at h; omega
  | [_], h => simp only [operandLength, List.length_singleton] at h; omega
  | n0 :: n1 :: bs, h =>
    have hcount : bs.length = (u16OfBytes n0 n1).toNat := by
      rw [u16OfBytes_toNat]
      simp only [operandLength, byteAt, List.length_cons, List.getD_cons_zero, List.getD_cons_succ] at h
      omega
    refine ⟨bs, by omega, ?_⟩
    rw [hcount, BitVec.ofNat_toNat, BitVec.setWidth_eq, le16_u16OfBytes]
    rfl

/-! ### What an operation that needs the block idle does -/

theorem refusedWhilePending_of_whenIdle {i : Instr} {go : State → Result} (h : ∀ s, exec i s = whenIdle s (go s)) :
    refusedWhilePending i :=
  fun s hp => (h s).trans (whenIdle_pending (go s) hp)

theorem exec_crcInit (s : State) : exec .crcInit s = whenIdle s (raise .ok { s with crc := 0xFFFF#16 }) := rfl

theorem exec_crcByte (b : Byte) (s : State) :
    exec (.crcByte b) s = whenIdle s (raise .ok { s with crc := crcStep s.crc b }) := rfl

theorem exec_crcBlock (bs : List Byte) (s : State) :
    exec (.crcBlock bs) s = whenIdle s (raise .ok { s with crc := checksum bs }) := rfl

/-- Settles O5: the only message of the right length is the code byte alone. -/
theorem crcInitRestartsCrc : Obligations.CrcInitRestartsCrc := by
  refine ⟨rfl, malformedRaises_of_operandLength (o := .crcInit) fun rest hlen => ?_,
    refusedWhilePending_of_whenIdle exec_crcInit, fun s hp => (exec_crcInit s).trans (whenIdle_idle _ hp)⟩
  rw [List.eq_nil_of_length_eq_zero hlen]
  rfl

/-- Settles O6: the only messages of the right length are the code byte and one more. -/
theorem crcByteAdvancesCrc : Obligations.CrcByteAdvancesCrc := by
  refine ⟨fun b => rfl, malformedRaises_of_operandLength (o := .crcByte) fun rest hlen => ?_,
    fun b => refusedWhilePending_of_whenIdle (exec_crcByte b),
    fun b s hp => (exec_crcByte b s).trans (whenIdle_idle _ hp), by decide, by decide, by decide⟩
  obtain ⟨b, rfl⟩ := List.length_eq_one_iff.mp hlen
  exact ⟨b, rfl⟩

/-- Settles O7: a message of the right length is the encoding of the bytes after its count. -/
theorem crcBlockComputesChecksum : Obligations.CrcBlockComputesChecksum := by
  refine ⟨fun bs h => ⟨rfl, runTransfer_of_decode (decode_encode_crcBlock h)⟩,
    malformedRaises_of_operandLength (o := .crcBlock) fun rest hlen => ?_,
    fun bs => refusedWhilePending_of_whenIdle (exec_crcBlock bs),
    fun bs s hp => (exec_crcBlock bs s).trans (whenIdle_idle _ hp)⟩
  obtain ⟨bs, hbs, rfl⟩ := eq_count_append_of_length hlen
  exact ⟨bs, hbs, rfl⟩

end Sys2Proof.Machine
end

section
/-! PROOFS. The frame functions (41_frame.md section 1): a frame carries its own checksum (R120), and `unframe` reports
the first of its checks that fails (R121). -/

namespace Sys2Proof.Machine

/-! ### Building a frame -/

@[simp] theorem frame_length (a c : Byte) (p : List Byte) : (frame a c p).length = p.length + 4 :=
  rawFrame_length a c p _

@[simp] theorem payloadOf_frame (a c : Byte) (p : List Byte) : payloadOf (frame a c p) = p :=
  payloadOf_rawFrame a c p _

/-- Every frame is valid (R122). -/
theorem checksum_frame (a c : Byte) (p : List Byte) : checksum (frame a c p) = 0x0000#16 :=
  checksumResidueIsZero (a :: c :: p)

/-- Settles O10: the model writes the same layout with `::`. -/
theorem frameIsPrefixAndChecksum : Obligations.FrameIsPrefixAndChecksum :=
  fun a c p => ⟨rfl, frame_length a c p⟩

/-! ### Checking a frame -/

theorem byteAt_eq_iff {s : List Byte} {i : Nat} (h : i < s.length) (b : Byte) : byteAt s i = b ↔ s[i]? = some b := by
  rw [byteAt, List.getD_eq_getElem?_getD, List.getElem?_eq_getElem h, Option.getD_some, Option.some_inj]

theorem unframe_tooShort {f : List Byte} (ea ec : Byte) (h : f.length < 4) :
    unframe f ea ec = .error .frameTooShort :=
  if_pos h

section
variable {f : List Byte} {ea ec : Byte} (hlen : 4 ≤ f.length)
include hlen

theorem unframe_addressMismatch (hea : byteAt f 0 ≠ ea) : unframe f ea ec = .error .addressMismatch := by
  rw [unframe_checks ea ec hlen, frameError, if_pos hea]

theorem unframe_commandMismatch (hea : byteAt f 0 = ea) (hec : byteAt f 1 ≠ ec) :
    unframe f ea ec = .error .commandMismatch := by
  rw [unframe_checks ea ec hlen, frameError, if_neg (not_not.mpr hea), if_pos hec]

theorem unframe_checksumInvalid (hea : byteAt f 0 = ea) (hec : byteAt f 1 = ec) (hcrc : checksum f ≠ 0x0000#16) :
    unframe f ea ec = .error .checksumInvalid := by
  rw [unframe_checks ea ec hlen, frameError, if_neg (not_not.mpr hea), if_neg (not_not.mpr hec), if_pos hcrc]

theorem unframe_eq_payloadOf (hea : byteAt f 0 = ea) (hec : byteAt f 1 = ec) (hcrc : checksum f = 0x0000#16) :
    unframe f ea ec = .ok (payloadOf f) := by
  rw [unframe_checks ea ec hlen, frameError_none.mpr ⟨hea, hec, hcrc⟩]

/-- On a frame that is long enough, an error of `unframe` comes from the matching checks. -/
theorem frameError_of_unframe_error {e : Code} (h : unframe f ea ec = .error e) :
    frameError f ea ec (checksum f) = some e := by
  rw [unframe_checks ea ec hlen] at h
  cases hf : frameError f ea ec (checksum f) with
  | none => rw [hf] at h; cases h
  | some e' => rw [hf] at h; cases h; rfl

end

/-- What `frame` builds passes every check of `unframe`. -/
theorem unframe_frame (a c : Byte) (p : List Byte) : unframe (frame a c p) a c = .ok p := by
  have hlen : 4 ≤ (frame a c p).length := by rw [frame_length]; omega
  have hpayload : unframe (frame a c p) a c = .ok (payloadOf (frame a c p)) :=
    unframe_eq_payloadOf hlen rfl rfl (checksum_frame a c p)
  rw [hpayload, payloadOf_frame]

/-- Settles O11: with 4 bytes or more the first two bytes exist, so the model's `byteAt` reads them. -/
theorem unframeReportsFirstFailure : Obligations.UnframeReportsFirstFailure := by
  intro f ea ec
  have hbyte0 (hlen : 4 ≤ f.length) : byteAt f 0 = ea ↔ f[0]? = some ea := byteAt_eq_iff (by omega) ea
  have hbyte1 (hlen : 4 ≤ f.length) : byteAt f 1 = ec ↔ f[1]? = some ec := byteAt_eq_iff (by omega) ec
  refine ⟨unframe_tooShort ea ec, fun hlen hea => ?address, fun hlen hea hec => ?command,
    fun hlen hea hec hcrc => ?checksum, fun hlen hea hec hcrc => ⟨?payload, payloadOf_length f⟩⟩
  case address => exact unframe_addressMismatch hlen (mt (hbyte0 hlen).mp hea)
  case command => exact unframe_commandMismatch hlen ((hbyte0 hlen).mpr hea) (mt (hbyte1 hlen).mp hec)
  case checksum => exact unframe_checksumInvalid hlen ((hbyte0 hlen).mpr hea) ((hbyte1 hlen).mpr hec) hcrc
  case payload => exact unframe_eq_payloadOf hlen ((hbyte0 hlen).mpr hea) ((hbyte1 hlen).mpr hec) hcrc

end Sys2Proof.Machine
end

section
/-! PROOFS. FRAME_ENCODE and FRAME_DECODE (41_frame.md section 2): their F4 messages, and what they leave of an idle
state in each case (R123, R124). -/

namespace Sys2Proof.Machine

/-! ### Messages of format F4 -/

theorem toNat_ofNat_byte {n : Nat} (h : n ≤ 255) : (BitVec.ofNat 8 n).toNat = n := by
  rw [BitVec.toNat_ofNat, Nat.mod_eq_of_lt (by omega)]

theorem decode_encode_frameEncode (a c : Byte) {p : List Byte} (h : p.length ≤ 255) :
    decode (encode (.frameEncode a c p)) = .ok (.frameEncode a c p) := by
  have hoperands : decodeOperands .frameEncode (a :: c :: BitVec.ofNat 8 p.length :: p) = some (.frameEncode a c p) :=
    if_pos (toNat_ofNat_byte h).symm
  have hcode : opcodeOf 0x20#8 = some .frameEncode := opcodeOf_code .frameEncode
  simp only [encode, decode, decodeMessage, hcode, hoperands]

theorem decode_encode_frameDecode (ea ec : Byte) {f : List Byte} (h : f.length ≤ 255) :
    decode (encode (.frameDecode ea ec f)) = .ok (.frameDecode ea ec f) := by
  have hoperands : decodeOperands .frameDecode (ea :: ec :: BitVec.ofNat 8 f.length :: f)
      = some (.frameDecode ea ec f) :=
    if_pos (toNat_ofNat_byte h).symm
  have hcode : opcodeOf 0x21#8 = some .frameDecode := opcodeOf_code .frameDecode
  simp only [encode, decode, decodeMessage, hcode, hoperands]

/-- Operands of F4's length are two bytes, a count and that many bytes. -/
theorem eq_two_count_cons_of_length {rest : List Byte} (h : rest.length = operandLength .f4 rest) :
    ∃ (a c : Byte) (bs : List Byte), bs.length ≤ 255 ∧ rest = a :: c :: BitVec.ofNat 8 bs.length :: bs := by
  match rest, h with
  | [], h => simp only [operandLength, List.length_nil] at h; omega
  | [_], h => simp only [operandLength, List.length_singleton] at h; omega
  | [_, _], h => simp only [operandLength, List.length_cons, List.length_nil] at h; omega
  | a :: c :: n :: bs, h =>
    have hcount : bs.length = n.toNat := by
      simp only [operandLength, byteAt, List.length_cons, List.getD_cons_zero, List.getD_cons_succ] at h
      omega
    refine ⟨a, c, bs, by omega, ?_⟩
    rw [hcount, BitVec.ofNat_toNat, BitVec.setWidth_eq]

/-! ### FRAME_ENCODE -/

section
variable {a : Byte} (c : Byte) {p : List Byte} {s : State} (hidle : s.pendValid = false)
include hidle

theorem exec_frameEncode_addressOutOfRange (p : List Byte) (ha : addrInRange a = false) :
    exec (.frameEncode a c p) s = .next (answer .addressOutOfRange s) :=
  (whenIdle_idle _ hidle).trans (if_pos ha)

theorem exec_frameEncode_tooLong (ha : addrInRange a = true) (hp : 132 < p.length) :
    exec (.frameEncode a c p) s = .next (answer .frameTooLong s) :=
  (whenIdle_idle _ hidle).trans ((if_neg (ne_false_of_eq_true ha)).trans (if_pos hp))

theorem exec_frameEncode_ok (ha : addrInRange a = true) (hp : p.length ≤ 132) :
    exec (.frameEncode a c p) s
      = .next (answer .ok { s.loadTx (frame a c p) with crc := checksum (a :: c :: p) }) :=
  (whenIdle_idle _ hidle).trans ((if_neg (ne_false_of_eq_true ha)).trans (if_neg (Nat.not_lt.mpr hp)))

end

/-- Settles O12: the three cases of an idle state are the model's, and its store is the one `storesAt` describes. -/
theorem frameEncodePacksTxbuf : Obligations.FrameEncodePacksTxbuf := by
  refine ⟨fun a c p hp => ⟨rfl, runTransfer_of_decode (decode_encode_frameEncode a c hp)⟩,
    malformedRaises_of_operandLength (o := .frameEncode) fun rest hlen => ?message,
    fun a c p => refusedWhilePending_of_whenIdle fun _ => rfl,
    fun a c p s hidle => ⟨fun ha => ?range, fun hlow hhigh hp => ?long, fun hlow hhigh hp => ?packed⟩⟩
  case message =>
    obtain ⟨a, c, p, hp, rfl⟩ := eq_two_count_cons_of_length hlen
    exact ⟨a, c, p, hp, rfl⟩
  case range => exact exec_frameEncode_addressOutOfRange c hidle p ((addrInRange_false_iff a).mpr ha)
  case long => exact exec_frameEncode_tooLong c hidle ((addrInRange_iff a).mpr ⟨hlow, hhigh⟩) hp
  case packed =>
    refine ⟨Memory.writeAll s.mem txBase (frame a c p), ?_, Memory.read_writeAll s.mem txBase (frame a c p)⟩
    rw [exec_frameEncode_ok c hidle ((addrInRange_iff a).mpr ⟨hlow, hhigh⟩) hp, State.loadTx, frame_length]

/-! ### FRAME_DECODE -/

section
variable {ea ec : Byte} {f : List Byte} {s : State} (hidle : s.pendValid = false)
include hidle

theorem exec_frameDecode_tooShort (hlen : f.length < 4) :
    exec (.frameDecode ea ec f) s = .next (answer .frameTooShort s.clearOutputs) :=
  (whenIdle_idle _ hidle).trans (if_pos hlen)

theorem exec_frameDecode_tooLong (hlen : 136 < f.length) :
    exec (.frameDecode ea ec f) s = .next (answer .frameTooLong s.clearOutputs) :=
  (whenIdle_idle _ hidle).trans ((if_neg (by omega)).trans (if_pos hlen))

/-- A frame of legal length that `unframe` rejects is reported with the code `unframe` gives. -/
theorem exec_frameDecode_error (hlow : 4 ≤ f.length) (hhigh : f.length ≤ 136) {e : Code}
    (h : unframe f ea ec = .error e) :
    exec (.frameDecode ea ec f) s = .next (answer e { s.clearOutputs with crc := checksum f }) := by
  have hchecks := frameError_of_unframe_error hlow h
  refine (whenIdle_idle _ hidle).trans ((if_neg (by omega)).trans ((if_neg (Nat.not_lt.mpr hhigh)).trans ?_))
  simp only [hchecks]
  rfl

/-- A frame of legal length that `unframe` accepts is delivered to OUTBUF. -/
theorem exec_frameDecode_ok (hlow : 4 ≤ f.length) (hhigh : f.length ≤ 136) {p : List Byte}
    (h : unframe f ea ec = .ok p) :
    exec (.frameDecode ea ec f) s
      = .next (answer .ok { s.clearOutputs.loadOut p with crc := 0x0000#16, rspValid := true }) := by
  obtain ⟨-, hchecks, hcrc, rfl⟩ := unframe_ok h
  rw [← hcrc]
  refine (whenIdle_idle _ hidle).trans ((if_neg (by omega)).trans ((if_neg (Nat.not_lt.mpr hhigh)).trans ?_))
  simp only [hchecks]
  rfl

end

/-- Settles O13: FRAME_DECODE is `unframe` on the lengths it admits, and its store is the one `storesAt` describes. -/
theorem frameDecodeChecksAndDelivers : Obligations.FrameDecodeChecksAndDelivers := by
  refine ⟨fun ea ec f hf => ⟨rfl, runTransfer_of_decode (decode_encode_frameDecode ea ec hf)⟩,
    malformedRaises_of_operandLength (o := .frameDecode) fun rest hlen => ?message,
    fun ea ec f => refusedWhilePending_of_whenIdle fun _ => rfl,
    fun ea ec f s hidle => ⟨exec_frameDecode_tooShort hidle, exec_frameDecode_tooLong hidle,
      fun hlow hhigh => ⟨fun e he => exec_frameDecode_error hidle hlow hhigh he, fun p hp => ?delivered⟩⟩⟩
  case message =>
    obtain ⟨ea, ec, f, hf, rfl⟩ := eq_two_count_cons_of_length hlen
    exact ⟨ea, ec, f, hf, rfl⟩
  case delivered =>
    refine ⟨Memory.writeAll s.mem outBase p, ?_, Memory.read_writeAll s.mem outBase p⟩
    obtain ⟨-, -, -, hpayload⟩ := unframe_ok hp
    rw [exec_frameDecode_ok hidle hlow hhigh hp, State.loadOut, ← payloadOf_length f, ← hpayload]
    rfl

end Sys2Proof.Machine
end

section
/-! PROOFS. The properties of the frame codec (41_frame.md section 3): the round trip (R125) and what a flipped bit is
reported as (R126). -/

namespace Sys2Proof.Machine

/-! ### The round trip -/

/-- A frame loaded into TXBUF is the transmit stream. -/
theorem State.txFrame_loadTx (s : State) {f : List Byte} (h : f.length ≤ 255) : (s.loadTx f).txFrame = f := by
  rw [State.txFrame, State.loadTx_txlen, toNat_ofNat_byte h, State.loadTx_mem, Memory.readAll_writeAll_same]

/-- A payload loaded into OUTBUF is the decoded payload. -/
theorem State.outPayload_loadOut (s : State) {p : List Byte} (h : p.length ≤ 255) : (s.loadOut p).outPayload = p := by
  rw [State.outPayload, State.loadOut_outlen, toNat_ofNat_byte h, State.loadOut_mem, Memory.readAll_writeAll_same]

/-- What FRAME_ENCODE packs is the transmit stream it leaves, and no request is opened. -/
theorem exec_frameEncode_txFrame {a : Byte} (c : Byte) {p : List Byte} {s : State} (hidle : s.pendValid = false)
    (ha : addrInRange a = true) (hp : p.length ≤ 132) :
    ∃ t, exec (.frameEncode a c p) s = .next t ∧ t.txFrame = frame a c p ∧ t.pendValid = false :=
  ⟨_, exec_frameEncode_ok c hidle ha hp, State.txFrame_loadTx s (by rw [frame_length]; omega), hidle⟩

/-- Settles O14: TXBUF holds the frame, which `unframe` takes apart into the payload. -/
theorem encodeThenDecodeReturnsPayload : Obligations.EncodeThenDecodeReturnsPayload := by
  intro a c p s hlow hhigh hp hidle
  obtain ⟨t, hencode, hsent, ht⟩ := exec_frameEncode_txFrame c hidle ((addrInRange_iff a).mpr ⟨hlow, hhigh⟩) hp
  have hlen := frame_length a c p
  have hdecode := exec_frameDecode_ok ht (by omega) (by omega) (unframe_frame a c p)
  rw [← hsent] at hdecode
  exact ⟨t, _, hencode, hdecode, rfl, toNat_ofNat_byte (by omega), State.outPayload_loadOut _ (by omega)⟩

/-! ### One flipped bit -/

theorem one_shiftLeft_ne_zero : ∀ r < 8, 1#8 <<< r ≠ 0#8 := by
  decide

/-- A flipped bit changes the byte it lies in and no other. -/
theorem byteAt_flipBit_eq_iff {f : List Byte} {k : Nat} (hk : k < 8 * f.length) (i : Nat) :
    byteAt (flipBit f k) i = byteAt f i ↔ k / 8 ≠ i := by
  by_cases hi : k / 8 = i
  · subst hi
    have hbyte : byteAt (flipBit f k) (k / 8) = byteAt f (k / 8) ^^^ (1#8 <<< (k % 8)) :=
      (byteAt_eq_iff (by rw [flipBit_length]; omega) _).mpr (List.getElem?_set_self (by omega))
    have hchanged : byteAt f (k / 8) ^^^ (1#8 <<< (k % 8)) ≠ byteAt f (k / 8) :=
      xor_left_eq_self_iff.not.mpr (one_shiftLeft_ne_zero (k % 8) (Nat.mod_lt k (by decide)))
    exact iff_of_false (hbyte ▸ hchanged) (not_not.mpr rfl)
  · refine iff_of_true ?_ hi
    simp only [byteAt, flipBit, List.getD_eq_getElem?_getD, List.getElem?_set_ne hi]

/-- What `unframe` reports of a frame with one flipped bit. -/
theorem unframe_flipBit_frame (a c : Byte) (p : List Byte) {k : Nat} (hk : k < 8 * (frame a c p).length) :
    unframe (flipBit (frame a c p) k) a c
      = .error (if k / 8 = 0 then .addressMismatch else if k / 8 = 1 then .commandMismatch else .checksumInvalid) := by
  have hlen : 4 ≤ (flipBit (frame a c p) k).length := by rw [flipBit_length, frame_length]; omega
  have hbyte0 : byteAt (flipBit (frame a c p) k) 0 = a ↔ k / 8 ≠ 0 := byteAt_flipBit_eq_iff hk 0
  have hbyte1 : byteAt (flipBit (frame a c p) k) 1 = c ↔ k / 8 ≠ 1 := byteAt_flipBit_eq_iff hk 1
  have hcrc : checksum (flipBit (frame a c p) k) ≠ 0x0000#16 :=
    (flippedBitsChangeChecksum (frame a c p) (checksum_frame a c p)).1 k hk
  split_ifs with h0 h1
  · exact unframe_addressMismatch hlen fun hea => hbyte0.mp hea h0
  · exact unframe_commandMismatch hlen (hbyte0.mpr h0) fun hec => hbyte1.mp hec h1
  · exact unframe_checksumInvalid hlen (hbyte0.mpr h0) (hbyte1.mpr h1) hcrc

/-- Settles O15: the flipped frame has a legal length, so FRAME_DECODE reports what `unframe` does. -/
theorem oneFlippedBitIsReported : Obligations.OneFlippedBitIsReported := by
  intro a c p s k _ _ hp hidle hk
  have hlen : (flipBit (frame a c p) k).length = p.length + 4 := by rw [flipBit_length, frame_length]
  have hunframe := unframe_flipBit_frame a c p (k := k) (by rw [frame_length]; exact hk)
  exact ⟨_, exec_frameDecode_error hidle (by omega) (by omega) hunframe, rfl⟩

end Sys2Proof.Machine
end

section
/-! PROOFS. The requests (42_command.md sections 1 and 2): their messages, the two checks of R140, and what R141 issues
for each command (R142 to R145). -/

namespace Sys2Proof.Machine

/-! ### Messages -/

/-- Four bytes are the little-endian form of one word (R57). -/
theorem eq_le32_of_length {bs : List Byte} (h : bs.length = 4) : ∃ v, bs = le32 v := by
  obtain ⟨b0, b1, b2, b3, rfl⟩ := List.length_eq_four.mp h
  exact ⟨u32OfBytes b0 b1 b2 b3, (le32_u32OfBytes b0 b1 b2 b3).symm⟩

/-- Operands of F3's length are a word and one chunk. -/
theorem eq_le32_append_of_length {bs : List Byte} (h : bs.length = 132) :
    ∃ v d, d.length = 128 ∧ bs = le32 v ++ d := by
  obtain ⟨v, hv⟩ := eq_le32_of_length (bs := bs.take 4) (by rw [List.length_take]; omega)
  exact ⟨v, bs.drop 4, by rw [List.length_drop]; omega, by rw [← hv, List.take_append_drop]⟩

/-! ### The two checks and what is issued -/

/-- Every REQ_* operation is `request` for its own command. -/
theorem exec_eq_request_of_isRequest {i : Instr} (h : isRequest i = true) :
    ∃ cmd p rsplen faddr, ∀ s, exec i s = request cmd p rsplen faddr s := by
  cases i with
  | reqBootEnter | reqReadChunk | reqBootExit | reqWriteChunk => exact ⟨_, _, _, _, fun _ => rfl⟩
  | _ => cases h

theorem request_pending {s : State} (cmd : Byte) (p : List Byte) (rsplen : Byte) (faddr : Word32)
    (h : s.pendValid = true) : request cmd p rsplen faddr s = .next (answer .requestOutstanding s) :=
  whenIdle_pending _ h

theorem request_unbound {s : State} (cmd : Byte) (p : List Byte) (rsplen : Byte) (faddr : Word32)
    (h : s.pendValid = false) (haddr : s.addr = 0x00#8) :
    request cmd p rsplen faddr s = .next (answer .addressUnset s) :=
  (whenIdle_idle _ h).trans (if_pos haddr)

theorem request_issued {s : State} (cmd : Byte) (p : List Byte) (rsplen : Byte) (faddr : Word32)
    (h : s.pendValid = false) (haddr : s.addr ≠ 0x00#8) :
    request cmd p rsplen faddr s = .next (requested s (Memory.writeAll s.mem txBase (frame s.addr cmd p))
      (frame s.addr cmd p) (checksum (s.addr :: cmd :: p)) cmd rsplen faddr) :=
  (whenIdle_idle _ h).trans (if_neg haddr)

theorem issues_of_request {i : Instr} {cmd rsplen : Byte} {p : List Byte} {faddr : Word32}
    (h : ∀ s, exec i s = request cmd p rsplen faddr s) : issues i cmd p rsplen faddr :=
  fun s hidle haddr => ⟨_, (h s).trans (request_issued cmd p rsplen faddr hidle haddr), Memory.read_writeAll _ _ _⟩

/-- Settles O16: the checks are those of `request`, whatever the command. -/
theorem requestsCheckPendingThenAddress : Obligations.RequestsCheckPendingThenAddress := by
  intro i s hi
  obtain ⟨cmd, p, rsplen, faddr, hexec⟩ := exec_eq_request_of_isRequest hi
  rw [hexec]
  exact ⟨request_pending cmd p rsplen faddr, request_unbound cmd p rsplen faddr⟩

theorem refusedWhilePending_of_isRequest {i : Instr} (h : isRequest i = true) : refusedWhilePending i :=
  fun s => (requestsCheckPendingThenAddress i s h).1

theorem exec_unbound_of_isRequest {i : Instr} (h : isRequest i = true) (s : State) (hidle : s.pendValid = false)
    (haddr : s.addr = 0x00#8) : exec i s = .next (answer .addressUnset s) :=
  (requestsCheckPendingThenAddress i s h).2 hidle haddr

/-! ### The four commands -/

/-- Settles O17: the only message of the right length is the code byte alone. -/
theorem bootEnterRequestIssued : Obligations.BootEnterRequestIssued := by
  refine ⟨rfl, malformedRaises_of_operandLength (o := .reqBootEnter) fun rest hlen => ?_,
    refusedWhilePending_of_isRequest rfl, exec_unbound_of_isRequest rfl, issues_of_request fun _ => rfl⟩
  rw [List.eq_nil_of_length_eq_zero hlen]
  rfl

/-- Settles O18: four operand bytes are always some flash address, and none is refused. -/
theorem readChunkRequestIssued : Obligations.ReadChunkRequestIssued := by
  refine ⟨fun _ => rfl, malformedRaises_of_operandLength (o := .reqReadChunk) fun rest hlen => ?_,
    fun _ => refusedWhilePending_of_isRequest rfl, fun _ => exec_unbound_of_isRequest rfl,
    fun _ => issues_of_request fun _ => rfl⟩
  obtain ⟨fa, rfl⟩ := eq_le32_of_length hlen
  exact ⟨fa, rfl⟩

/-- Settles O19: the only message of the right length is the code byte alone. -/
theorem bootExitRequestIssued : Obligations.BootExitRequestIssued := by
  refine ⟨rfl, malformedRaises_of_operandLength (o := .reqBootExit) fun rest hlen => ?_,
    refusedWhilePending_of_isRequest rfl, exec_unbound_of_isRequest rfl, issues_of_request fun _ => rfl⟩
  rw [List.eq_nil_of_length_eq_zero hlen]
  rfl

/-- Settles O20: the operands of a message of the right length are an address and one chunk. -/
theorem writeChunkRequestIssued : Obligations.WriteChunkRequestIssued := by
  refine ⟨fun _ _ => rfl, malformedRaises_of_operandLength (o := .reqWriteChunk) fun rest hlen => ?message,
    fun _ _ => refusedWhilePending_of_isRequest rfl, fun _ _ => exec_unbound_of_isRequest rfl,
    fun fa d hd => ⟨issues_of_request fun _ => rfl, fun a => ?length⟩⟩
  case message =>
    obtain ⟨fa, d, hd, rfl⟩ := eq_le32_append_of_length hlen
    exact ⟨fa, d, hd, rfl⟩
  case length => rw [frame_length, List.length_append, le32_length, hd]

end Sys2Proof.Machine
end

section
/-! PROOFS. One received byte (42_command.md section 3): what RX_BYTE leaves of an exchange that still waits (R150), and
how the last awaited byte ends one, by a failing frame check or with a payload for the decoder (R151). -/

namespace Sys2Proof.Machine

/-! ### A byte that is not the last -/

theorem exec_rxByte (b : Byte) (s : State) : exec (.rxByte b) s = rxByteWith Config.hardware b s := rfl

theorem exec_rxByte_idle (b : Byte) (s : State) (h : s.pendValid = false) :
    exec (.rxByte b) s = .next (answer .noRequestPending s) :=
  rxByteWith_idle Config.hardware b h

/-- Storing one byte is storing a sequence of one. -/
theorem storesAt_write (m : Memory) (a : Nat) (b : Byte) : storesAt (Memory.write m a b) m a [b] :=
  Memory.read_writeAll m a [b]

/-- Settles O21: the state that waits is `taken`, which stores one byte and runs the checksum on. -/
theorem rxByteAccumulates : Obligations.RxByteAccumulates := by
  refine ⟨fun _ => rfl, malformedRaises_of_operandLength (o := .rxByte) fun rest hlen => ?message, exec_rxByte_idle,
    fun b s hpend hshort => ?waits⟩
  case message =>
    obtain ⟨b, rfl⟩ := List.length_eq_one_iff.mp hlen
    exact ⟨b, rfl⟩
  case waits =>
    have hlt : (s.rxlen + 1#8).toNat < s.pendRsplen.toNat := by
      rw [rxlen_succ (y := s.pendRsplen) (by omega)]
      exact hshort
    exact ⟨_, rxByteWith_waits Config.hardware b hpend hlt, storesAt_write _ _ _⟩

/-! ### Completion -/

theorem complete_of_frameError_some (P : Params) {s : State} {e : Code}
    (h : frameError s.rxBytes s.addr s.pendCmd s.crc = some e) :
    complete P s = .next (answer e { s with pendValid := false }) := by
  simp only [complete, State.rxBytes] at h ⊢
  simp only [h]
  rfl

theorem complete_of_frameError_none (P : Params) {s : State}
    (h : frameError s.rxBytes s.addr s.pendCmd s.crc = none) :
    complete P s = decodeResponse P (payloadOf s.rxBytes) (s.delivered (payloadOf s.rxBytes)) := by
  simp only [complete, State.rxBytes] at h ⊢
  simp only [h]
  rfl

/-! ### The last awaited byte -/

section
variable {s : State} (hinv : s.Inv) (hpend : s.pendValid = true) (hlast : s.rxlen.toNat + 1 = s.pendRsplen.toNat)
include hlast

theorem rxlen_succ_eq_rsplen : s.rxlen + 1#8 = s.pendRsplen :=
  BitVec.eq_of_toNat_eq (by rw [rxlen_succ (y := s.pendRsplen) (by omega), hlast])

theorem taken_rxBytes_of_last (b : Byte) : (s.taken b).rxBytes = s.rxBytes ++ [b] :=
  taken_rxBytes b (rxlen_succ (y := s.pendRsplen) (by omega))

include hpend

theorem exec_rxByte_of_last (b : Byte) : exec (.rxByte b) s = complete Config.hardware (s.taken b) :=
  rxByteWith_completes Config.hardware b hpend (by rw [rxlen_succ_eq_rsplen hlast]; exact Nat.lt_irrefl _)

include hinv

/-- The state completion starts from. -/
theorem taken_of_last (b : Byte) :
    s.taken b = { s with
      mem := Memory.write s.mem (rxBase + s.rxlen.toNat) b
      rxlen := s.pendRsplen
      crc := checksum (s.rxBytes ++ [b]) } := by
  rw [State.taken, State.appendRx, hinv.rxCrc_eq hpend, rxlen_succ_eq_rsplen hlast]

/-- Every whole response is long enough for the frame checks (R82). -/
theorem four_le_length_of_last (b : Byte) : 4 ≤ (s.rxBytes ++ [b]).length := by
  obtain ⟨hlow, -⟩ := pendShape_bounds (hinv.pendShaped hpend)
  rw [List.length_append, rxBytes_length, List.length_singleton]
  omega

/-- A last byte after which `unframe` fails ends the exchange with that failure. -/
theorem exec_rxByte_of_unframe_error {b : Byte} {e : Code}
    (h : unframe (s.rxBytes ++ [b]) s.addr s.pendCmd = .error e) :
    exec (.rxByte b) s = .next (answer e { s.taken b with pendValid := false }) := by
  have hchecks := frameError_of_unframe_error (four_le_length_of_last hinv hpend hlast b) h
  rw [← hinv.rxCrc_eq hpend, ← taken_rxBytes_of_last hlast] at hchecks
  rw [exec_rxByte_of_last hpend hlast, complete_of_frameError_some _ hchecks]

/-- A last byte after which `unframe` passes hands the payload to the command's decoder. -/
theorem exec_rxByte_of_unframe_ok {b : Byte} {p : List Byte}
    (h : unframe (s.rxBytes ++ [b]) s.addr s.pendCmd = .ok p) :
    exec (.rxByte b) s = decodeResponse Config.hardware p ((s.taken b).delivered p) := by
  obtain ⟨-, hchecks, -, rfl⟩ := unframe_ok h
  rw [← hinv.rxCrc_eq hpend, ← taken_rxBytes_of_last hlast] at hchecks
  rw [exec_rxByte_of_last hpend hlast, complete_of_frameError_none _ hchecks, taken_rxBytes_of_last hlast]

end

/-- The failures of the frame checks: of `unframe`'s codes all but FrameTooShort. -/
theorem code_of_frameError {f : List Byte} {ea ec : Byte} {residue : Word16} {e : Code}
    (h : frameError f ea ec residue = some e) :
    e = .addressMismatch ∨ e = .commandMismatch ∨ e = .checksumInvalid := by
  rcases frameError_some h with ⟨-, rfl⟩ | ⟨-, -, rfl⟩ | ⟨-, -, -, rfl⟩
  · exact .inl rfl
  · exact .inr (.inl rfl)
  · exact .inr (.inr rfl)

/-- Settles O22: the received bytes are a frame of at least 4 bytes and CRC is their checksum, so completion reports what
`unframe` does. -/
theorem completionReportsFrameError : Obligations.CompletionReportsFrameError := by
  intro s b e hinv hpend hlast h
  have hchecks := frameError_of_unframe_error (four_le_length_of_last hinv hpend hlast b) h
  refine ⟨code_of_frameError hchecks, Memory.write s.mem (rxBase + s.rxlen.toNat) b, ?_, storesAt_write _ _ _⟩
  rw [exec_rxByte_of_unframe_error hinv hpend hlast h, taken_of_last hinv hpend hlast]

end Sys2Proof.Machine
end

section
/-! PROOFS. The response decoders (42_command.md section 4): what each leaves of the state it is given, and what the last
byte of a passed response leaves of an exchange (R152 to R155). -/

namespace Sys2Proof.Machine

/-! ### What each decoder answers -/

section
variable (P : Params) (p : List Byte) {s : State}

theorem decodeResponse_bootEnter (h : s.pendCmd = 100#8) :
    decodeResponse P p s = .next (answer (if u32le p 0 = P.bootMagic then .ok else .magicMismatch)
      { s with rspEcho := u32le p 0 }) := by
  refine (if_pos h).trans ?_
  by_cases hmagic : u32le p 0 = P.bootMagic
  · rw [if_pos hmagic]
    exact if_neg (not_not.mpr hmagic)
  · rw [if_neg hmagic]
    exact if_pos hmagic

theorem decodeResponse_readChunk (h : s.pendCmd = 101#8) :
    decodeResponse P p s = .next (answer .ok
      { s with rspEcho := u32le p 0, echoMatch := u32le p 0 == s.pendFaddr }) :=
  (if_neg (by rw [h]; decide)).trans (if_pos h)

theorem decodeResponse_bootExit (h : s.pendCmd = 102#8) : decodeResponse P p s = .next (answer .ok s) :=
  (if_neg (by rw [h]; decide)).trans ((if_neg (by rw [h]; decide)).trans (if_pos h))

theorem decodeResponse_writeChunk (h : s.pendCmd = 103#8) :
    decodeResponse P p s = .next (answer (if writeAccepted P (u32le p 4) = true then .ok else .writeRejected)
      { s with
        rspEcho := u32le p 0
        rspStatus := u32le p 4
        echoMatch := u32le p 0 == s.pendFaddr
        writeOk := writeAccepted P (u32le p 4) }) := by
  have hdecoder : decodeResponse P p s = rspWriteChunk P p s :=
    (if_neg (by rw [h]; decide)).trans
      ((if_neg (by rw [h]; decide)).trans ((if_neg (by rw [h]; decide)).trans (if_pos h)))
  rw [hdecoder]
  by_cases haccepted : writeAccepted P (u32le p 4) = true
  · rw [if_pos haccepted]
    exact if_neg (ne_false_of_eq_true haccepted)
  · rw [if_neg haccepted]
    exact if_pos (Bool.eq_false_of_not_eq_true haccepted)

end

theorem writeAccepted_iff (P : Params) (w : Word32) :
    writeAccepted P w = true ↔ w = P.writeOkA ∨ w = P.writeOkB := by
  simp only [writeAccepted, Bool.or_eq_true, beq_iff_eq]

/-! ### The flags and the awaited length of an open exchange -/

theorem State.Inv.writeOk_of_pending {s : State} (hinv : s.Inv) (hpend : s.pendValid = true) : s.writeOk = false := by
  obtain ⟨hcleared, -⟩ := hinv.pendCleared hpend
  by_contra hset
  obtain ⟨hvalid, -⟩ := hinv.writeOkStatus (Bool.eq_true_of_not_eq_false hset)
  exact absurd (hcleared.symm.trans hvalid) Bool.false_ne_true

theorem State.Inv.echoMatch_of_pending {s : State} (hinv : s.Inv) (hpend : s.pendValid = true) :
    s.echoMatch = false := by
  obtain ⟨hcleared, -⟩ := hinv.pendCleared hpend
  by_contra hset
  obtain ⟨hvalid, -⟩ := hinv.echoMatchEcho (Bool.eq_true_of_not_eq_false hset)
  exact absurd (hcleared.symm.trans hvalid) Bool.false_ne_true

/-- A request awaits the response length of its command's row in R82. -/
theorem frameLengths_of_pendShape {cmd rsplen : Byte} {faddr : Word32} (h : pendShape cmd rsplen faddr = true) :
    ∃ request, frameLengths cmd = some (request, rsplen.toNat) := by
  rcases pendShape_cases h with ⟨rfl, rfl⟩ | ⟨rfl, rfl⟩ | ⟨rfl, rfl⟩ | ⟨rfl, rfl⟩ <;> exact ⟨_, rfl⟩

/-! ### The last byte of a passed response -/

/-- The memory a passed completion leaves: the last byte in RXBUF, then the payload in OUTBUF. -/
def replyMemory (s : State) (b : Byte) (p : List Byte) : Memory :=
  Memory.writeAll (Memory.write s.mem (rxBase + s.rxlen.toNat) b) outBase p

theorem storesReply_replyMemory (s : State) (b : Byte) (p : List Byte) :
    storesReply (replyMemory s b p) s.mem s.rxlen.toNat b p :=
  ⟨_, storesAt_write _ _ _, Memory.read_writeAll _ _ _⟩

section
variable {s : State} {b : Byte} {p : List Byte} (h : completesWith s b p)
include h

/-- The payload is the response without address, command and CRC. -/
theorem payload_length_of_completesWith {request response : Nat}
    (hlengths : frameLengths s.pendCmd = some (request, response)) : p.length = response - 4 := by
  obtain ⟨hinv, hpend, hlast, hunframe⟩ := h
  obtain ⟨-, -, -, rfl⟩ := unframe_ok hunframe
  obtain ⟨_, hshape⟩ := frameLengths_of_pendShape (hinv.pendShaped hpend)
  cases hlengths.symm.trans hshape
  rw [payloadOf_length, List.length_append, rxBytes_length, List.length_singleton, hlast]

/-- What the command's decoder is given; the code and the history are as before, since it writes them. -/
theorem delivered_of_completesWith :
    (s.taken b).delivered p
      = { completed s (replyMemory s b p) p s.code with events := s.events } := by
  obtain ⟨hinv, hpend, hlast, hunframe⟩ := h
  obtain ⟨-, -, hcrc, -⟩ := unframe_ok hunframe
  rw [taken_of_last hinv hpend hlast, hcrc]
  rfl

theorem exec_rxByte_of_completesWith :
    exec (.rxByte b) s = decodeResponse Config.hardware p
      { completed s (replyMemory s b p) p s.code with events := s.events } := by
  rw [← delivered_of_completesWith h]
  obtain ⟨hinv, hpend, hlast, hunframe⟩ := h
  exact exec_rxByte_of_unframe_ok hinv hpend hlast hunframe

theorem writeOk_of_completesWith : s.writeOk = false := by
  obtain ⟨hinv, hpend, -⟩ := h
  exact hinv.writeOk_of_pending hpend

theorem echoMatch_of_completesWith : s.echoMatch = false := by
  obtain ⟨hinv, hpend, -⟩ := h
  exact hinv.echoMatch_of_pending hpend

end

/-- Settles O23, by the decoder of BOOT_ENTER. -/
theorem bootEnterResponseDecoded : Obligations.BootEnterResponseDecoded := by
  intro s b p h hcmd
  refine ⟨payload_length_of_completesWith h (by rw [hcmd]; rfl), writeOk_of_completesWith h,
    echoMatch_of_completesWith h, replyMemory s b p, storesReply_replyMemory s b p, ?_⟩
  exact (exec_rxByte_of_completesWith h).trans (decodeResponse_bootEnter Config.hardware p hcmd)

/-- Settles O24, by the decoder of READ_CHUNK. -/
theorem readChunkResponseDecoded : Obligations.ReadChunkResponseDecoded := by
  intro s b p h hcmd
  refine ⟨payload_length_of_completesWith h (by rw [hcmd]; rfl), writeOk_of_completesWith h,
    replyMemory s b p, storesReply_replyMemory s b p, ?_⟩
  exact (exec_rxByte_of_completesWith h).trans (decodeResponse_readChunk Config.hardware p hcmd)

/-- Settles O25, by the decoder of BOOT_EXIT, which looks at no payload byte. -/
theorem bootExitResponseDecoded : Obligations.BootExitResponseDecoded := by
  intro s b p h hcmd
  have hlen : p.length = 0 := payload_length_of_completesWith h (by rw [hcmd]; rfl)
  refine ⟨List.eq_nil_of_length_eq_zero hlen, writeOk_of_completesWith h, echoMatch_of_completesWith h,
    replyMemory s b p, storesReply_replyMemory s b p, ?_⟩
  exact (exec_rxByte_of_completesWith h).trans (decodeResponse_bootExit Config.hardware p hcmd)

/-- Settles O26, by the decoder of WRITE_CHUNK. -/
theorem writeChunkResponseDecoded : Obligations.WriteChunkResponseDecoded := by
  intro s b p h hcmd
  refine ⟨payload_length_of_completesWith h (by rw [hcmd]; rfl), replyMemory s b p,
    writeAccepted Config.hardware (u32le p 4), storesReply_replyMemory s b p, writeAccepted_iff _ _, ?_⟩
  exact (exec_rxByte_of_completesWith h).trans (decodeResponse_writeChunk Config.hardware p hcmd)

end Sys2Proof.Machine
end

section
/-! PROOFS. Exchanges (42_command.md section 5): fed bytes in order, before, at and after the awaited length (R157, R158),
and the two ways an exchange ends (R156). -/

namespace Sys2Proof.Machine

/-- Single RX_BYTE operations are a fed frame (R79). -/
theorem execAll_map_rxByte (f : List Byte) (s : State) :
    execAll (f.map .rxByte) s = rxFrameWith Config.hardware f s := by
  induction f generalizing s with
  | nil => rfl
  | cons b f ih => exact congrArg (andThen (exec (.rxByte b) s)) (funext ih)

/-! ### Fewer bytes than awaited -/

/-- The state after bytes that leave the exchange waiting. -/
def State.waiting : List Byte → State → State
  | [], s => s
  | b :: bs, s => State.waiting bs ((s.taken b).finish .receiving)

@[simp] theorem State.waiting_pendValid (bs : List Byte) (s : State) : (s.waiting bs).pendValid = s.pendValid := by
  induction bs generalizing s with
  | nil => rfl
  | cons b bs ih => exact ih _

@[simp] theorem State.waiting_pendCmd (bs : List Byte) (s : State) : (s.waiting bs).pendCmd = s.pendCmd := by
  induction bs generalizing s with
  | nil => rfl
  | cons b bs ih => exact ih _

@[simp] theorem State.waiting_pendRsplen (bs : List Byte) (s : State) : (s.waiting bs).pendRsplen = s.pendRsplen := by
  induction bs generalizing s with
  | nil => rfl
  | cons b bs ih => exact ih _

/-- Any byte leaves the code Receiving. -/
theorem State.waiting_code {bs : List Byte} (h : bs ≠ []) (s : State) : (s.waiting bs).code = .receiving := by
  induction bs generalizing s with
  | nil => exact absurd rfl h
  | cons b bs ih =>
    cases bs with
    | nil => rfl
    | cons c bs => exact ih (List.cons_ne_nil c bs) _

section
variable {s : State} {bs : List Byte}

theorem room_after_byte {b : Byte} (h : s.rxlen.toNat + (b :: bs).length < s.pendRsplen.toNat) :
    ((s.taken b).finish .receiving).rxlen.toNat + bs.length < s.pendRsplen.toNat := by
  have hgrown : (s.rxlen + 1#8).toNat = s.rxlen.toNat + 1 := rxlen_succ (y := s.pendRsplen) (by omega)
  show (s.rxlen + 1#8).toNat + bs.length < s.pendRsplen.toNat
  rw [hgrown]
  rw [List.length_cons] at h
  omega

/-- The bytes stand in RXBUF in order. -/
theorem State.waiting_rxBytes (h : s.rxlen.toNat + bs.length < s.pendRsplen.toNat) :
    (s.waiting bs).rxBytes = s.rxBytes ++ bs := by
  induction bs generalizing s with
  | nil => exact (List.append_nil _).symm
  | cons b bs ih =>
    calc ((s.taken b).finish .receiving |>.waiting bs).rxBytes
        = (s.taken b).rxBytes ++ bs := ih (room_after_byte h)
      _ = (s.rxBytes ++ [b]) ++ bs := by rw [taken_rxBytes b (rxlen_succ (y := s.pendRsplen) (by omega))]
      _ = s.rxBytes ++ b :: bs := by rw [List.append_assoc, List.singleton_append]

theorem State.waiting_rxlen (h : s.rxlen.toNat + bs.length < s.pendRsplen.toNat) :
    (s.waiting bs).rxlen.toNat = s.rxlen.toNat + bs.length := by
  rw [← rxBytes_length, State.waiting_rxBytes h, List.length_append, rxBytes_length]

theorem rxFrameWith_of_short (P : Params) (hpend : s.pendValid = true)
    (h : s.rxlen.toNat + bs.length < s.pendRsplen.toNat) : rxFrameWith P bs s = .next (s.waiting bs) := by
  induction bs generalizing s with
  | nil => rfl
  | cons b bs ih =>
    have hroom := room_after_byte h
    have hwaits : (s.rxlen + 1#8).toNat < s.pendRsplen.toNat := lt_of_le_of_lt (Nat.le_add_right _ _) hroom
    rw [rxFrameWith, rxByteWith_waits P b hpend hwaits, andThen_of_next]
    exact ih hpend hroom

end

/-- Settles O28: a short response leaves the state `waiting`. -/
theorem shortResponseKeepsWaiting : Obligations.ShortResponseKeepsWaiting := by
  intro bs s hne hpend hshort
  refine ⟨s.waiting bs, ?_, State.waiting_code hne s, (State.waiting_pendValid bs s).trans hpend,
    State.waiting_rxlen hshort, State.waiting_rxBytes hshort⟩
  rw [execAll_map_rxByte, rxFrameWith_of_short Config.hardware hpend hshort]

/-! ### As many bytes as awaited -/

/-- No decoder opens or ends an exchange. -/
theorem decodeResponse_pendValid {P : Params} {p : List Byte} {s t : State} (h : decodeResponse P p s = .next t) :
    t.pendValid = s.pendValid := by
  rcases decodeResponse_next h with ⟨-, c, -, rfl⟩ | ⟨-, rfl⟩ | ⟨-, rfl⟩ | ⟨-, c, -, rfl⟩ <;> rfl

/-- Completion of one of the four commands ends the exchange, whether the frame passes or not. -/
theorem complete_ends (P : Params) {s : State}
    (hcmd : s.pendCmd = Config.opcBootEnter ∨ s.pendCmd = Config.opcReadChunk ∨ s.pendCmd = Config.opcBootExit
      ∨ s.pendCmd = Config.opcWriteChunk) : ∃ t, complete P s = .next t ∧ t.pendValid = false := by
  cases hchecks : frameError s.rxBytes s.addr s.pendCmd s.crc with
  | some e => exact ⟨_, complete_of_frameError_some P hchecks, rfl⟩
  | none =>
    obtain ⟨t, ht⟩ := decodeResponse_answers P (payloadOf s.rxBytes) (s.delivered (payloadOf s.rxBytes)) hcmd
    exact ⟨t, (complete_of_frameError_none P hchecks).trans ht, decodeResponse_pendValid ht⟩

theorem pendCmd_of_pendShape {cmd rsplen : Byte} {faddr : Word32} (h : pendShape cmd rsplen faddr = true) :
    cmd = Config.opcBootEnter ∨ cmd = Config.opcReadChunk ∨ cmd = Config.opcBootExit ∨ cmd = Config.opcWriteChunk :=
  (pendShape_cases h).imp And.left (Or.imp And.left (Or.imp And.left And.left))

/-- All bytes but the last leave the exchange waiting, and the last completes it. -/
theorem rxFrameWith_ends (P : Params) {f : List Byte} {s : State} (hinv : s.Inv) (hpend : s.pendValid = true)
    (hlen : s.rxlen.toNat + f.length = s.pendRsplen.toNat) :
    ∃ t, rxFrameWith P f s = .next t ∧ t.pendValid = false := by
  have hreceiving := hinv.pendReceiving hpend
  rcases List.eq_nil_or_concat' f with rfl | ⟨bs, b, rfl⟩
  · rw [List.length_nil] at hlen
    omega
  rw [List.length_append, List.length_singleton] at hlen
  have hshort : s.rxlen.toNat + bs.length < s.pendRsplen.toNat := by omega
  have hrxlen := State.waiting_rxlen hshort
  have hlast : ¬ ((s.waiting bs).rxlen + 1#8).toNat < (s.waiting bs).pendRsplen.toNat := by
    rw [State.waiting_pendRsplen, rxlen_succ (y := s.pendRsplen) (by omega)]
    omega
  have hcmd := pendCmd_of_pendShape (hinv.pendShaped hpend)
  rw [← State.waiting_pendCmd bs s] at hcmd
  obtain ⟨t, ht, hended⟩ := complete_ends P (s := (s.waiting bs).taken b) hcmd
  refine ⟨t, ?_, hended⟩
  rw [rxFrameWith_append, rxFrameWith_of_short P hpend hshort, andThen_of_next, rxFrameWith,
    rxByteWith_completes P b ((State.waiting_pendValid bs s).trans hpend) hlast, ht]
  rfl

/-! ### More bytes than awaited -/

/-- What bytes outside an exchange leave, one code for each in the history (R157). -/
def State.discarding (n : Nat) (s : State) : State :=
  { s with code := .noRequestPending, events := List.replicate n (.result .noRequestPending) ++ s.events }

theorem State.discarding_succ (n : Nat) (s : State) :
    s.discarding (n + 1) = (s.finish .noRequestPending).discarding n := by
  simp only [State.discarding, State.finish, List.replicate_succ', List.append_assoc, List.singleton_append]

theorem rxFrameWith_of_idle (P : Params) {g : List Byte} {s : State} (hidle : s.pendValid = false) (hne : g ≠ []) :
    rxFrameWith P g s = .next (s.discarding g.length) := by
  induction g generalizing s with
  | nil => exact absurd rfl hne
  | cons b g ih =>
    rw [rxFrameWith, rxByteWith_idle P b hidle, andThen_of_next, List.length_cons, State.discarding_succ]
    cases g with
    | nil => rfl
    | cons c g => exact ih hidle (List.cons_ne_nil c g)

/-- Settles O27: a single byte is discarded, an exchange ends at its awaited length, and what follows an ended exchange is
discarded byte by byte. -/
theorem surplusBytesDiscarded : Obligations.SurplusBytesDiscarded := by
  refine ⟨exec_rxByte_idle, fun f s hinv hpend hlen => ?ends, fun f g s t ht hidle hne => ?surplus⟩
  case ends =>
    rw [execAll_map_rxByte]
    exact rxFrameWith_ends Config.hardware hinv hpend hlen
  case surplus =>
    rw [execAll_map_rxByte] at ht ⊢
    rw [rxFrameWith_append, ht, andThen_of_next]
    exact rxFrameWith_of_idle Config.hardware hidle hne

/-! ### How an exchange ends -/

/-- While a request is outstanding, every operation but ABORT and RX_BYTE is refused (R243, R244, R245). -/
theorem refusedWhilePending_of_isOperation {i : Instr} (hop : isOperation i = true) (habort : i ≠ .abort)
    (hrx : ∀ b, i ≠ .rxByte b) : refusedWhilePending i := by
  cases i with
  | crcInit | crcByte | crcBlock | setAddr | frameEncode | frameDecode | reqBootEnter | reqReadChunk | reqBootExit
  | reqWriteChunk => exact refusedWhilePending_of_whenIdle fun _ => rfl
  | abort => exact absurd rfl habort
  | rxByte b => exact absurd rfl (hrx b)
  | bootEnterRequest | bootEnterResponse | readChunkRequest | readChunkResponse | bootExitRequest | bootExitResponse
  | writeChunkRequest | writeChunkResponse => cases hop

theorem exec_abort_pending {s : State} (h : s.pendValid = true) :
    exec .abort s = .next (answer .timeout { s with pendValid := false }) :=
  if_neg (ne_false_of_eq_true h)

theorem decodeResponse_code {P : Params} {p : List Byte} {s t : State} (h : decodeResponse P p s = .next t) :
    t.code = .ok ∨ t.code = .magicMismatch ∨ t.code = .writeRejected := by
  rcases decodeResponse_next h with ⟨-, c, rfl | rfl, rfl⟩ | ⟨-, rfl⟩ | ⟨-, rfl⟩ | ⟨-, c, rfl | rfl, rfl⟩ <;> simp

/-- The codes of completion: those of the frame checks and those of the decoders (R156). -/
theorem complete_code {P : Params} {s t : State} (h : complete P s = .next t) :
    t.code = .ok ∨ t.code = .addressMismatch ∨ t.code = .commandMismatch ∨ t.code = .checksumInvalid
      ∨ t.code = .magicMismatch ∨ t.code = .writeRejected := by
  rcases complete_next h with ⟨e, he, rfl⟩ | ⟨-, hdecode⟩
  · have hcode := code_of_frameError he
    simp only [State.finish_code]
    tauto
  · have hcode := decodeResponse_code hdecode
    tauto

/-- Settles O29: all other operations are refused, ABORT answers Timeout, and a byte that leaves the exchange open
answers Receiving. -/
theorem exchangeEndsByCompletionOrAbort : Obligations.ExchangeEndsByCompletionOrAbort := by
  intro i s t hinv hop hpend hexec hended
  by_cases habort : i = .abort
  · subst habort
    cases (exec_abort_pending hpend).symm.trans hexec
    exact .inl ⟨rfl, rfl⟩
  by_cases hrx : ∃ b, i = .rxByte b
  · obtain ⟨b, rfl⟩ := hrx
    rcases rxByteWith_next hexec with ⟨hidle, -⟩ | ⟨-, -, rfl⟩ | ⟨-, hlast, hcomplete⟩
    · exact absurd (hidle.symm.trans hpend) Bool.false_ne_true
    · exact absurd (hended.symm.trans hpend) Bool.false_ne_true
    · have hreceiving := hinv.pendReceiving hpend
      rw [rxlen_succ hreceiving] at hlast
      exact .inr ⟨b, rfl, by omega, complete_code hcomplete⟩
  · have hrefused := refusedWhilePending_of_isOperation hop habort (fun b hb => hrx ⟨b, hb⟩) s hpend
    cases hrefused.symm.trans hexec
    exact absurd (hended.symm.trans hpend) Bool.false_ne_true

end Sys2Proof.Machine
end

section
/-! PROOFS. The control operations (43_control.md): SET_ADDR's message and the three cases of R180, and ABORT with an
exchange open and with none (R181). -/

namespace Sys2Proof.Machine

/-! ### SET_ADDR -/

theorem exec_setAddr (a : Byte) (s : State) :
    exec (.setAddr a) s = whenIdle s
      (if addrInRange a = false then raise .addressOutOfRange s else raise .ok { s with addr := a }) := rfl

theorem exec_setAddr_inRange {a : Byte} {s : State} (hidle : s.pendValid = false) (h : addrInRange a = true) :
    exec (.setAddr a) s = .next (answer .ok { s with addr := a }) := by
  rw [exec_setAddr, whenIdle_idle _ hidle, if_neg (ne_false_of_eq_true h)]
  rfl

theorem exec_setAddr_outOfRange {a : Byte} {s : State} (hidle : s.pendValid = false) (h : addrInRange a = false) :
    exec (.setAddr a) s = .next (answer .addressOutOfRange s) := by
  rw [exec_setAddr, whenIdle_idle _ hidle, if_pos h]
  rfl

/-- Bit 5 of STATUS is ADDR_VALID (R23). -/
theorem State.status_getLsbD_five (s : State) : s.status.getLsbD 5 = s.addrValid := by
  simp only [State.status, BitVec.getLsbD_append]
  simp

/-- An address in range is not 0, the value that means none is bound (R22). -/
theorem State.addrValid_of_inRange {s : State} (h : addrInRange s.addr = true) : s.addrValid = true := by
  obtain ⟨hpos, -⟩ := (addrInRange_iff s.addr).mp h
  have hne : s.addr ≠ 0x00#8 := fun hzero => by simp [hzero] at hpos
  simpa [State.addrValid] using hne

/-- Settles O8: the three cases are the model's, and an address in range, once bound, makes ADDR_VALID read 1. -/
theorem setAddrBindsLegalAddress : Obligations.SetAddrBindsLegalAddress := by
  refine ⟨fun _ => rfl, malformedRaises_of_operandLength (o := .setAddr) fun rest hlen => ?message,
    fun a => refusedWhilePending_of_whenIdle (exec_setAddr a), fun a s hidle hpos hle => ?inRange,
    fun a s hidle hout => exec_setAddr_outOfRange hidle ((addrInRange_false_iff a).mpr (by omega))⟩
  case message =>
    obtain ⟨a, rfl⟩ := List.length_eq_one_iff.mp hlen
    exact ⟨a, rfl⟩
  case inRange =>
    have hrange : addrInRange a = true := (addrInRange_iff a).mpr ⟨hpos, hle⟩
    have hexec := exec_setAddr_inRange hidle hrange
    refine ⟨hexec, fun t ht => ?_⟩
    cases hexec.symm.trans ht
    exact (State.status_getLsbD_five _).trans (State.addrValid_of_inRange hrange)

/-! ### ABORT -/

theorem exec_abort_idle {s : State} (h : s.pendValid = false) :
    exec .abort s = .next (answer .noRequestPending s) :=
  if_pos h

/-- Settles O9: the only message of the right length is the code byte alone, and PEND.valid decides the rest. -/
theorem abortEndsExchange : Obligations.AbortEndsExchange := by
  refine ⟨rfl, malformedRaises_of_operandLength (o := .abort) fun rest hlen => ?_,
    fun _ => exec_abort_idle, fun _ => exec_abort_pending⟩
  rw [List.eq_nil_of_length_eq_zero hlen]
  rfl

end Sys2Proof.Machine
end

section
/-! PROOFS. Hazards (70_reset_and_hazards.md): what a request outstanding refuses and what it lets through (R243, R244,
R245), and what each operation does directly after reset (R241). -/

namespace Sys2Proof.Machine

/-! ### A request outstanding -/

/-- RX_BYTE is not refused while a request is outstanding: its codes then are Receiving and those of completion. -/
theorem exec_rxByte_code_ne_requestOutstanding {b : Byte} {s t : State} (hpend : s.pendValid = true)
    (h : exec (.rxByte b) s = .next t) : t.code ≠ .requestOutstanding := by
  rcases rxByteWith_next h with ⟨hidle, -⟩ | ⟨-, -, rfl⟩ | ⟨-, -, hcomplete⟩
  · exact absurd (hidle.symm.trans hpend) Bool.false_ne_true
  · rw [State.finish_code]
    decide
  · rcases complete_code hcomplete with hc | hc | hc | hc | hc | hc <;> rw [hc] <;> decide

/-- Settles O54: ABORT, RX_BYTE and malformed messages get through, and every other operation needs the block idle. -/
theorem pendingExchangeIsProtected : Obligations.PendingExchangeIsProtected := fun s hpend =>
  ⟨fun _ hop habort hrx => refusedWhilePending_of_isOperation hop habort hrx s hpend, exec_abort_pending hpend,
    fun _ _ => exec_rxByte_code_ne_requestOutstanding hpend, fun _ _ => runTransfer_message_error s⟩

/-! ### No request outstanding -/

section
variable {s : State} (hidle : s.pendValid = false)
include hidle

/-- With the register at its start value, CRC_BYTE computes the checksum of its byte alone (R101, R241). -/
theorem exec_crcByte_of_crcInit (b : Byte) (hcrc : s.crc = Config.crcInit) :
    exec (.crcByte b) s = .next (answer .ok { s with crc := checksum [b] }) := by
  rw [exec_crcByte, whenIdle_idle _ hidle, hcrc]
  rfl

theorem exec_setAddr_answers (a : Byte) : ∃ t, exec (.setAddr a) s = .next t := by
  cases ha : addrInRange a with
  | false => exact ⟨_, exec_setAddr_outOfRange hidle ha⟩
  | true => exact ⟨_, exec_setAddr_inRange hidle ha⟩

theorem exec_frameEncode_answers (a c : Byte) (p : List Byte) : ∃ t, exec (.frameEncode a c p) s = .next t := by
  cases ha : addrInRange a with
  | false => exact ⟨_, exec_frameEncode_addressOutOfRange c hidle p ha⟩
  | true =>
    rcases Nat.lt_or_ge 132 p.length with hp | hp
    · exact ⟨_, exec_frameEncode_tooLong c hidle ha hp⟩
    · exact ⟨_, exec_frameEncode_ok c hidle ha hp⟩

theorem exec_frameDecode_answers (ea ec : Byte) (f : List Byte) : ∃ t, exec (.frameDecode ea ec f) s = .next t := by
  rcases Nat.lt_or_ge f.length 4 with hshort | hlow
  · exact ⟨_, exec_frameDecode_tooShort hidle hshort⟩
  rcases Nat.lt_or_ge 136 f.length with hlong | hhigh
  · exact ⟨_, exec_frameDecode_tooLong hidle hlong⟩
  cases hchecks : unframe f ea ec with
  | error e => exact ⟨_, exec_frameDecode_error hidle hlow hhigh hchecks⟩
  | ok p => exact ⟨_, exec_frameDecode_ok hidle hlow hhigh hchecks⟩

/-- With an address bound, every request is issued. -/
theorem exec_bound_of_isRequest {i : Instr} (h : isRequest i = true) (haddr : s.addr ≠ 0x00#8) :
    ∃ t, exec i s = .next t ∧ t.code = .ok := by
  obtain ⟨cmd, p, rsplen, faddr, hexec⟩ := exec_eq_request_of_isRequest h
  exact ⟨_, (hexec s).trans (request_issued cmd p rsplen faddr hidle haddr), rfl⟩

theorem exec_request_answers {i : Instr} (h : isRequest i = true) : ∃ t, exec i s = .next t := by
  by_cases haddr : s.addr = 0x00#8
  · exact ⟨_, exec_unbound_of_isRequest h s hidle haddr⟩
  · obtain ⟨t, ht, -⟩ := exec_bound_of_isRequest hidle h haddr
    exact ⟨t, ht⟩

/-- No operation traps an idle block (R200), whatever its operands. -/
theorem exec_answers_of_isOperation {i : Instr} (hop : isOperation i = true) : ∃ t, exec i s = .next t := by
  cases i with
  | crcInit | crcByte | crcBlock => exact ⟨_, whenIdle_idle _ hidle⟩
  | setAddr a => exact exec_setAddr_answers hidle a
  | abort => exact ⟨_, exec_abort_idle hidle⟩
  | frameEncode a c p => exact exec_frameEncode_answers hidle a c p
  | frameDecode ea ec f => exact exec_frameDecode_answers hidle ea ec f
  | reqBootEnter | reqReadChunk | reqBootExit | reqWriteChunk => exact exec_request_answers hidle rfl
  | rxByte b => exact ⟨_, exec_rxByte_idle b s hidle⟩
  | bootEnterRequest | bootEnterResponse | readChunkRequest | readChunkResponse | bootExitRequest | bootExitResponse
  | writeChunkRequest | writeChunkResponse => cases hop

end

/-! ### Directly after reset -/

/-- Settles O48: the reset state is idle, its CRC register is at the start value, and no address is bound. -/
theorem operationsAfterReset : Obligations.OperationsAfterReset := by
  have hidle : State.reset.pendValid = false := rfl
  have hinit : exec .crcInit State.reset = .next (answer .ok { State.reset with crc := Config.crcInit }) :=
    whenIdle_idle _ hidle
  refine ⟨fun i hop => ?answers, hinit, fun b => exec_crcByte_of_crcInit hidle b rfl, fun b => ?initThenByte,
    fun bs => (exec_crcBlock bs _).trans (whenIdle_idle _ hidle), fun a c p hlow hhigh hp => ?frames,
    fun a hlow hhigh => ?bound⟩
  case answers =>
    obtain ⟨t, ht⟩ := exec_answers_of_isOperation hidle hop
    refine ⟨t, ht, fun hreq => ?_, ?_, ?_⟩
    · cases ht.symm.trans (exec_unbound_of_isRequest hreq State.reset hidle rfl)
      rfl
    · rintro rfl
      cases ht.symm.trans (exec_abort_idle hidle)
      rfl
    · rintro b rfl
      cases ht.symm.trans (exec_rxByte_idle b State.reset hidle)
      rfl
  case initThenByte =>
    have hbyte := exec_crcByte_of_crcInit (s := answer .ok { State.reset with crc := Config.crcInit }) hidle b rfl
    refine ⟨_, Eq.trans ?_ hbyte, rfl, rfl⟩
    rw [execAll, hinit, andThen_of_next]
    exact andThen_skip _
  case frames =>
    have hlen := frame_length a c p
    have hencode := exec_frameEncode_ok c hidle ((addrInRange_iff a).mpr ⟨hlow, hhigh⟩) hp
    have hdecode := exec_frameDecode_ok hidle (by omega) (by omega) (unframe_frame a c p)
    exact ⟨_, _, hencode, rfl, State.txFrame_loadTx _ (by omega), hdecode, rfl,
      State.outPayload_loadOut _ (by omega)⟩
  case bound =>
    have hrange : addrInRange a = true := (addrInRange_iff a).mpr ⟨hlow, hhigh⟩
    refine ⟨_, exec_setAddr_inRange hidle hrange, fun i hreq => ?_⟩
    exact exec_bound_of_isRequest rfl hreq (bne_iff_ne.mp (State.addrValid_of_inRange hrange))

end Sys2Proof.Machine
end

section
/-! PROOFS. The decoder and the encoder invert each other (30_encoding.md sections 1, 2, 5 and 6): what each row of R72
and R82 encodes to decodes to that row, and whatever decodes is well formed and has just the spelling it was read
from. -/

namespace Sys2Proof.Machine

/-! ### Decoding what was encoded -/

/-- A message is read by its code byte; the operands decide the rest (R70, R74). -/
theorem decode_message_of_operands {o : Opcode} {m : List Byte} {i : Instr} (h : decodeOperands o m = some i) :
    decode (.message (o.code :: m)) = .ok i := by
  simp only [decode, decodeMessage, opcodeOf_code, h]

theorem decode_lineOut_of_some {f : List Byte} {i : Instr} (h : decodeRequestFrame f = some i) :
    decode (.lineOut f) = .ok i := by
  simp only [decode, h]

theorem decode_lineIn_of_some {f : List Byte} {i : Instr} (h : decodeResponseFrame f = some i) :
    decode (.lineIn f) = .ok i := by
  simp only [decode, h]

theorem decode_encode_reqReadChunk (fa : Word32) : decode (encode (.reqReadChunk fa)) = .ok (.reqReadChunk fa) := by
  refine decode_message_of_operands (o := .reqReadChunk) ?_
  simp only [le32, decodeOperands, u32OfBytes_extract]

theorem decode_encode_reqWriteChunk (fa : Word32) {d : List Byte} (h : d.length = Config.chunk) :
    decode (encode (.reqWriteChunk fa d)) = .ok (.reqWriteChunk fa d) := by
  refine decode_message_of_operands (o := .reqWriteChunk) ?_
  simp only [le32, List.cons_append, List.nil_append, decodeOperands, u32OfBytes_extract, if_pos h]

/-! The frames: `simp` reads the command byte against R82's in order and puts the fields together again. -/

theorem decode_encode_bootEnterRequest (a : Byte) (magic : Word32) (crc : Word16) :
    decode (encode (.bootEnterRequest a magic crc)) = .ok (.bootEnterRequest a magic crc) := by
  refine decode_lineOut_of_some ?_
  simp [decodeRequestFrame, rawFrame, le32, le16, Config.opcBootEnter]

theorem decode_encode_bootEnterResponse (a : Byte) (magic : Word32) (crc : Word16) :
    decode (encode (.bootEnterResponse a magic crc)) = .ok (.bootEnterResponse a magic crc) := by
  refine decode_lineIn_of_some ?_
  simp [decodeResponseFrame, rawFrame, le32, le16, Config.opcBootEnter]

theorem decode_encode_readChunkRequest (a : Byte) (fa : Word32) (crc : Word16) :
    decode (encode (.readChunkRequest a fa crc)) = .ok (.readChunkRequest a fa crc) := by
  refine decode_lineOut_of_some ?_
  simp [decodeRequestFrame, rawFrame, le32, le16, Config.opcBootEnter, Config.opcReadChunk]

theorem decode_encode_readChunkResponse (a : Byte) (echo : Word32) {d : List Byte} (crc : Word16)
    (h : d.length = Config.chunk) :
    decode (encode (.readChunkResponse a echo d crc)) = .ok (.readChunkResponse a echo d crc) := by
  refine decode_lineIn_of_some ?_
  simp [decodeResponseFrame, rawFrame, le32, le16, ← h, Config.opcBootEnter, Config.opcReadChunk]

theorem decode_encode_bootExitRequest (a : Byte) (crc : Word16) :
    decode (encode (.bootExitRequest a crc)) = .ok (.bootExitRequest a crc) := by
  refine decode_lineOut_of_some ?_
  simp [decodeRequestFrame, rawFrame, le16, Config.opcBootEnter, Config.opcReadChunk, Config.opcBootExit]

theorem decode_encode_bootExitResponse (a : Byte) (crc : Word16) :
    decode (encode (.bootExitResponse a crc)) = .ok (.bootExitResponse a crc) := by
  refine decode_lineIn_of_some ?_
  simp [decodeResponseFrame, rawFrame, le16, Config.opcBootEnter, Config.opcReadChunk, Config.opcBootExit]

theorem decode_encode_writeChunkRequest (a : Byte) (fa : Word32) {d : List Byte} (crc : Word16)
    (h : d.length = Config.chunk) :
    decode (encode (.writeChunkRequest a fa d crc)) = .ok (.writeChunkRequest a fa d crc) := by
  refine decode_lineOut_of_some ?_
  simp [decodeRequestFrame, rawFrame, le32, le16, ← h, Config.opcBootEnter, Config.opcReadChunk, Config.opcBootExit,
    Config.opcWriteChunk]

theorem decode_encode_writeChunkResponse (a : Byte) (echo status : Word32) (crc : Word16) :
    decode (encode (.writeChunkResponse a echo status crc)) = .ok (.writeChunkResponse a echo status crc) := by
  refine decode_lineIn_of_some ?_
  simp [decodeResponseFrame, rawFrame, le32, le16, Config.opcBootEnter, Config.opcReadChunk, Config.opcBootExit,
    Config.opcWriteChunk]

/-- Settles O37, row by row: the rows of R72 without a counted field compute. -/
theorem decodeOfEncode : Obligations.DecodeOfEncode := by
  intro i hwf
  cases i with
  | crcInit | crcByte | setAddr | abort | reqBootEnter | reqBootExit | rxByte => rfl
  | crcBlock s => exact decode_encode_crcBlock (of_decide_eq_true hwf)
  | frameEncode a c p => exact decode_encode_frameEncode a c (of_decide_eq_true hwf)
  | frameDecode ea ec f => exact decode_encode_frameDecode ea ec (of_decide_eq_true hwf)
  | reqReadChunk fa => exact decode_encode_reqReadChunk fa
  | reqWriteChunk fa d => exact decode_encode_reqWriteChunk fa (of_decide_eq_true hwf)
  | bootEnterRequest a magic crc => exact decode_encode_bootEnterRequest a magic crc
  | bootEnterResponse a magic crc => exact decode_encode_bootEnterResponse a magic crc
  | readChunkRequest a fa crc => exact decode_encode_readChunkRequest a fa crc
  | readChunkResponse a echo d crc => exact decode_encode_readChunkResponse a echo crc (of_decide_eq_true hwf)
  | bootExitRequest a crc => exact decode_encode_bootExitRequest a crc
  | bootExitResponse a crc => exact decode_encode_bootExitResponse a crc
  | writeChunkRequest a fa d crc => exact decode_encode_writeChunkRequest a fa crc (of_decide_eq_true hwf)
  | writeChunkResponse a echo status crc => exact decode_encode_writeChunkResponse a echo status crc

/-! ### Encoding what was decoded -/

theorem code_of_opcodeOf {b : Byte} {o : Opcode} (h : opcodeOf b = some o) : o.code = b := by
  simpa using List.find?_some h

/-- Counts read back as the lengths they were checked against. -/
theorem ofNat_length_eq {n : Nat} {w : Nat} {v : BitVec w} (h : n = v.toNat) : BitVec.ofNat w n = v := by
  rw [h, BitVec.ofNat_toNat, BitVec.setWidth_eq]

/-- Operands that decode are those of a well-formed instruction, which encodes to the code and these bytes. -/
theorem encode_of_decodeOperands {o : Opcode} {m : List Byte} {i : Instr} (h : decodeOperands o m = some i) :
    i.wellFormed = true ∧ encode i = .message (o.code :: m) := by
  cases o with
  | crcInit | abort | reqBootEnter | reqBootExit | crcByte | setAddr | rxByte =>
    simp only [decodeOperands] at h
    split at h
    · cases h
      exact ⟨rfl, rfl⟩
    · cases h
  | reqReadChunk =>
    simp only [decodeOperands] at h
    split at h
    · cases h
      exact ⟨rfl, by simp only [encode, le32_u32OfBytes]; rfl⟩
    · cases h
  | crcBlock =>
    simp only [decodeOperands] at h
    split at h
    · obtain ⟨hcount, hi⟩ := Option.ite_none_right_eq_some.mp h
      cases hi
      refine ⟨decide_eq_true (by omega), ?_⟩
      simp only [encode, ofNat_length_eq hcount, le16_u16OfBytes]
      rfl
    · cases h
  | frameEncode | frameDecode =>
    simp only [decodeOperands] at h
    split at h
    · obtain ⟨hcount, hi⟩ := Option.ite_none_right_eq_some.mp h
      cases hi
      refine ⟨decide_eq_true (by omega), ?_⟩
      simp only [encode, ofNat_length_eq hcount]
      rfl
    · cases h
  | reqWriteChunk =>
    simp only [decodeOperands] at h
    split at h
    · obtain ⟨hcount, hi⟩ := Option.ite_none_right_eq_some.mp h
      cases hi
      exact ⟨decide_eq_true hcount, by simp only [encode, le32_u32OfBytes]; rfl⟩
    · cases h

/-- A chunk followed by two CRC bytes, as the frame decoders cut it. -/
theorem chunk_of_drop {more : List Byte} {k0 k1 : Byte} (h : more.drop Config.chunk = [k0, k1]) :
    (more.take Config.chunk).length = Config.chunk ∧ more.take Config.chunk ++ [k0, k1] = more := by
  have hlen := congrArg List.length h
  rw [List.length_drop, List.length_cons, List.length_singleton] at hlen
  exact ⟨List.length_take_of_le (by omega), by rw [← h, List.take_append_drop]⟩

/-- A request frame that decodes is the encoding of its row of R82. -/
theorem encode_of_decodeRequestFrame {f : List Byte} {i : Instr} (h : decodeRequestFrame f = some i) :
    i.wellFormed = true ∧ encode i = .lineOut f := by
  match f, h with
  | a :: c :: rest, h =>
    simp only [decodeRequestFrame] at h
    split_ifs at h with henter hread hexit hwrite
    · subst henter
      split at h <;> cases h
      exact ⟨rfl, by simp only [encode, rawFrame, le32_u32OfBytes, le16_u16OfBytes]; rfl⟩
    · subst hread
      split at h <;> cases h
      exact ⟨rfl, by simp only [encode, rawFrame, le32_u32OfBytes, le16_u16OfBytes]; rfl⟩
    · subst hexit
      split at h <;> cases h
      exact ⟨rfl, by simp only [encode, rawFrame, le16_u16OfBytes]; rfl⟩
    · subst hwrite
      split at h
      · split at h
        · rename_i hdrop
          obtain ⟨hlen, htake⟩ := chunk_of_drop hdrop
          cases h
          refine ⟨decide_eq_true hlen, ?_⟩
          simp only [encode, rawFrame, le32_u32OfBytes, le16_u16OfBytes, List.append_assoc, htake]
          rfl
        · cases h
      · cases h

/-- A response frame that decodes is the encoding of its row of R82. -/
theorem encode_of_decodeResponseFrame {f : List Byte} {i : Instr} (h : decodeResponseFrame f = some i) :
    i.wellFormed = true ∧ encode i = .lineIn f := by
  match f, h with
  | a :: c :: rest, h =>
    simp only [decodeResponseFrame] at h
    split_ifs at h with henter hread hexit hwrite
    · subst henter
      split at h <;> cases h
      exact ⟨rfl, by simp only [encode, rawFrame, le32_u32OfBytes, le16_u16OfBytes]; rfl⟩
    · subst hread
      split at h
      · split at h
        · rename_i hdrop
          obtain ⟨hlen, htake⟩ := chunk_of_drop hdrop
          cases h
          refine ⟨decide_eq_true hlen, ?_⟩
          simp only [encode, rawFrame, le32_u32OfBytes, le16_u16OfBytes, List.append_assoc, htake]
          rfl
        · cases h
      · cases h
    · subst hexit
      split at h <;> cases h
      exact ⟨rfl, by simp only [encode, rawFrame, le16_u16OfBytes]; rfl⟩
    · subst hwrite
      split at h <;> cases h
      exact ⟨rfl, by simp only [encode, rawFrame, le32_u32OfBytes, le16_u16OfBytes]; rfl⟩

/-- A message that decodes is the encoding of its row of R72. -/
theorem encode_of_decodeMessage {m : List Byte} {i : Instr} (h : decodeMessage m = .ok i) :
    i.wellFormed = true ∧ encode i = .message m := by
  match m, h with
  | op :: rest, h =>
    simp only [decodeMessage] at h
    split at h
    · cases h
    · rename_i o hcode
      split at h <;> cases h
      rename_i hoperands
      rw [← code_of_opcodeOf hcode]
      exact encode_of_decodeOperands hoperands

/-- Settles O38, by the channel the bytes come by. -/
theorem encodeOfDecode : Obligations.EncodeOfDecode := by
  intro t i h
  cases t with
  | message m => exact encode_of_decodeMessage h
  | lineOut f =>
    simp only [decode] at h
    split at h <;> cases h
    rename_i hframe
    exact encode_of_decodeRequestFrame hframe
  | lineIn f =>
    simp only [decode] at h
    split at h <;> cases h
    rename_i hframe
    exact encode_of_decodeResponseFrame hframe

/-- Settles O39: eight transfers that the decoder evaluates. -/
theorem writtenOutWordsDecode : Obligations.WrittenOutWordsDecode :=
  ⟨rfl, rfl, rfl, rfl, rfl, rfl, rfl, rfl⟩

end Sys2Proof.Machine
end

section
/-! PROOFS. The wire frames (30_encoding.md sections 5 and 6): frames sent (R83 to R89) and what a request leaves to be
sent, frames fed byte by byte (R79), and a whole valid response in a fresh exchange (R84 to R90, R152 to R155). -/

namespace Sys2Proof.Machine

/-! ### Frames sent -/

/-- A request row transmits its encoding (log 6). -/
theorem exec_of_encode_lineOut {i : Instr} {f : List Byte} (h : encode i = .lineOut f) (s : State) :
    exec i s = transmit f s := by
  cases i with
  | bootEnterRequest | readChunkRequest | bootExitRequest | writeChunkRequest => cases h; rfl
  | _ => cases h

/-- Any frame sent is transmitted, a command frame or not. -/
theorem runTransfer_lineOut (f : List Byte) (s : State) : runTransfer (.lineOut f) s = transmit f s := by
  cases hd : decode (.lineOut f) with
  | ok i =>
    rw [runTransfer_of_decode hd]
    exact exec_of_encode_lineOut (encodeOfDecode _ i hd).2 s
  | error e =>
    simp only [runTransfer, hd]
    rfl

/-- Settles O30: the row's encoding is the layout of R80. -/
theorem requestFramesLeaveTheBlockAlone : Obligations.RequestFramesLeaveTheBlockAlone :=
  ⟨fun _ _ _ => exec_of_encode_lineOut rfl, fun _ _ _ => exec_of_encode_lineOut rfl,
    fun _ _ => exec_of_encode_lineOut rfl,
    fun _ _ _ _ => exec_of_encode_lineOut (by simp [encode, rawFrame]), runTransfer_lineOut⟩

/-- A request issued leaves the frame of its command with the CRC register for its CRC (R141). -/
theorem request_txFrame {cmd rsplen : Byte} {p : List Byte} {faddr : Word32} {s t : State}
    (hidle : s.pendValid = false) (haddr : s.addr ≠ 0x00#8) (hp : p.length ≤ 132)
    (h : request cmd p rsplen faddr s = .next t) : t.txFrame = rawFrame s.addr cmd p t.crc := by
  have hlen := frame_length s.addr cmd p
  cases (request_issued cmd p rsplen faddr hidle haddr).symm.trans h
  exact State.txFrame_loadTx s (by omega)

/-- Settles O31: each REQ_* is `request` with the command and the payload of its row in R82. -/
theorem requestsLeaveTheirFrame : Obligations.RequestsLeaveTheirFrame := by
  intro s t hidle haddr
  have hleaves {cmd rsplen : Byte} {p : List Byte} {faddr : Word32} (hp : p.length ≤ 132)
      (h : request cmd p rsplen faddr s = .next t) :
      Transfer.lineOut (rawFrame s.addr cmd p t.crc) = .lineOut t.txFrame :=
    congrArg _ (request_txFrame hidle haddr hp h).symm
  refine ⟨hleaves (by simp), fun fa => hleaves (by simp), hleaves (by simp), fun fa d hd => hleaves ?_⟩
  rw [List.length_append, le32_length, hd]

/-! ### Frames fed -/

/-- A response row is fed as its encoding (log 7). -/
theorem exec_of_encode_lineIn {i : Instr} {f : List Byte} (h : encode i = .lineIn f) (s : State) :
    exec i s = rxFrameWith Config.hardware f s := by
  cases i with
  | bootEnterResponse | readChunkResponse | bootExitResponse | writeChunkResponse => cases h; rfl
  | _ => cases h

/-- Any frame received is fed, a command frame or not. -/
theorem runTransfer_lineIn (f : List Byte) (s : State) :
    runTransfer (.lineIn f) s = rxFrameWith Config.hardware f s := by
  cases hd : decode (.lineIn f) with
  | ok i =>
    rw [runTransfer_of_decode hd]
    exact exec_of_encode_lineIn (encodeOfDecode _ i hd).2 s
  | error e =>
    simp only [runTransfer, hd]
    rfl

/-- A response row outside an exchange is discarded, with one code for each byte of its frame (R157). -/
theorem exec_of_encode_lineIn_idle {i : Instr} {f : List Byte} {s : State} (h : encode i = .lineIn f)
    (hidle : s.pendValid = false) (hne : f ≠ []) : exec i s = .next (s.discarding f.length) :=
  (exec_of_encode_lineIn h s).trans (rxFrameWith_of_idle Config.hardware hidle hne)

/-- Settles O36: a fed frame is RX_BYTE of each byte, and an idle block discards each. -/
theorem responseFramesAreFedByteByByte : Obligations.ResponseFramesAreFedByteByByte := by
  refine ⟨fun i f h s => ?_, fun f s => ?_, fun s hidle => ⟨fun a magic crc => ?_, fun a echo d crc hd => ?_,
    fun a crc => ?_, fun a echo status crc => ?_⟩⟩
  · rw [execAll_map_rxByte, exec_of_encode_lineIn h]
  · rw [execAll_map_rxByte, runTransfer_lineIn]
  · exact exec_of_encode_lineIn_idle (i := .bootEnterResponse a magic crc) rfl hidle nofun
  · have hlen : (rawFrame a 101#8 (le32 echo ++ d) crc).length = 136 := by
      rw [rawFrame_length, List.length_append, le32_length, hd]
    rw [← hlen]
    exact exec_of_encode_lineIn_idle (i := .readChunkResponse a echo d crc) rfl hidle nofun
  · exact exec_of_encode_lineIn_idle (i := .bootExitResponse a crc) rfl hidle nofun
  · exact exec_of_encode_lineIn_idle (i := .writeChunkResponse a echo status crc) rfl hidle nofun

/-! ### All bytes of a response in a fresh exchange -/

theorem Memory.writeAll_snoc (m : Memory) (base : Nat) (bs : List Byte) (b : Byte) :
    Memory.writeAll m base (bs ++ [b]) = Memory.write (Memory.writeAll m base bs) (base + bs.length) b := by
  induction bs generalizing m base with
  | nil => rfl
  | cons c bs ih =>
    rw [List.cons_append, Memory.writeAll, ih, List.length_cons, Nat.add_right_comm, Nat.add_assoc]
    rfl

theorem State.waiting_snoc (bs : List Byte) (b : Byte) (s : State) :
    s.waiting (bs ++ [b]) = ((s.waiting bs).taken b).finish .receiving := by
  induction bs generalizing s with
  | nil => rfl
  | cons c bs ih => exact ih _

/-- A byte after the first runs the checksum on. -/
theorem taken_of_received {s : State} (b : Byte) (h : s.rxlen ≠ 0#8) :
    s.taken b = { s.appendRx b with crc := crcStep s.crc b } := by
  rw [State.taken, rxCrc, if_neg h]

/-- What `n` bytes of a fresh exchange leave before the last is seen to be the last; the code is written after. -/
theorem taken_waiting_of_fresh {s : State} (hfresh : s.rxlen = 0#8) (bs : List Byte) (b : Byte)
    (hlen : bs.length < 255) :
    ∃ code, (s.waiting bs).taken b = { s with
      mem := Memory.writeAll s.mem rxBase (bs ++ [b])
      rxlen := BitVec.ofNat 8 (bs.length + 1)
      crc := checksum (bs ++ [b])
      code := code
      events := List.replicate bs.length (.result .receiving) ++ s.events } := by
  induction bs using List.reverseRecOn generalizing b with
  | nil =>
    exact ⟨s.code, by simp [State.waiting, State.taken, State.appendRx, rxCrc, hfresh, Memory.writeAll, checksum]⟩
  | append_singleton bs c ih =>
    rw [List.length_append, List.length_singleton] at hlen
    obtain ⟨code, htaken⟩ := ih c (by omega)
    have hrxlen : (BitVec.ofNat 8 (bs.length + 1)).toNat = bs.length + 1 := toNat_ofNat_byte (by omega)
    have hne : BitVec.ofNat 8 (bs.length + 1) ≠ 0#8 := fun hzero => by simp [hzero] at hrxlen
    have hgrown : BitVec.ofNat 8 (bs.length + 1) + 1#8 = BitVec.ofNat 8 (bs.length + 1 + 1) :=
      (BitVec.ofNat_add _ _).symm
    refine ⟨.receiving, ?_⟩
    rw [State.waiting_snoc, htaken, Memory.writeAll_snoc _ _ (bs ++ [c]), checksum_snoc (bs ++ [c]),
      List.length_append, List.length_singleton, ← hgrown]
    refine (taken_of_received b hne).trans ?_
    simp only [State.appendRx, State.finish, hrxlen]
    rfl

/-- The memory a whole passed response leaves: the frame in RXBUF, then the payload in OUTBUF. -/
def frameMemory (s : State) (f p : List Byte) : Memory := Memory.writeAll (Memory.writeAll s.mem rxBase f) outBase p

theorem storesFrameAndReply_frameMemory (s : State) (f p : List Byte) :
    storesFrameAndReply (frameMemory s f p) s.mem f p :=
  ⟨_, Memory.read_writeAll _ _ _, Memory.read_writeAll _ _ _⟩

/-- The last byte of a whole frame in a fresh exchange goes to completion. -/
theorem rxFrameWith_of_fresh_eq_complete (P : Params) {s : State} {bs : List Byte} (b : Byte)
    (hpend : s.pendValid = true) (hfresh : s.rxlen = 0#8) (hlen : bs.length + 1 = s.pendRsplen.toNat) :
    rxFrameWith P (bs ++ [b]) s = complete P ((s.waiting bs).taken b) := by
  have hshort : s.rxlen.toNat + bs.length < s.pendRsplen.toNat := by
    rw [hfresh]
    simp only [BitVec.toNat_ofNat]
    omega
  have hrxlen : (s.waiting bs).rxlen.toNat + 1 = s.pendRsplen.toNat := by
    rw [State.waiting_rxlen hshort, hfresh, ← hlen]
    simp
  have hlast : ¬ ((s.waiting bs).rxlen + 1#8).toNat < (s.waiting bs).pendRsplen.toNat := by
    rw [State.waiting_pendRsplen, rxlen_succ (y := s.pendRsplen) (by omega), hrxlen]
    exact Nat.lt_irrefl _
  rw [rxFrameWith_append, rxFrameWith_of_short P hpend hshort, andThen_of_next, rxFrameWith,
    rxByteWith_completes P b ((State.waiting_pendValid bs s).trans hpend) hlast]
  exact andThen_skip _

/-- A whole valid response in a fresh exchange is delivered to the command's decoder, which writes the code last. -/
theorem rxFrameWith_of_fresh (P : Params) {s : State} {cmd : Byte} {p : List Byte} (hp : p.length ≤ 132)
    (h : awaits s cmd (p.length + 4)) :
    ∃ code, rxFrameWith P (frame s.addr cmd p) s = decodeResponse P p
      { received s (frameMemory s (frame s.addr cmd p) p) (p.length + 4) p code with
        events := List.replicate (p.length + 3) (.result .receiving) ++ s.events } := by
  obtain ⟨hpend, rfl, hrsplen, hfresh⟩ := h
  have hflen := frame_length s.addr s.pendCmd p
  have hpayload := payloadOf_frame s.addr s.pendCmd p
  have hchecks : frameError (frame s.addr s.pendCmd p) s.addr s.pendCmd 0x0000#16 = none :=
    frameError_none.mpr ⟨rfl, rfl, rfl⟩
  obtain ⟨bs, b, hsplit⟩ : ∃ bs b, frame s.addr s.pendCmd p = bs ++ [b] :=
    (List.eq_nil_or_concat' _).resolve_left nofun
  have hbs : bs.length = p.length + 3 := by simpa [hsplit] using hflen
  obtain ⟨code, htaken⟩ := taken_waiting_of_fresh hfresh bs b (by omega)
  rw [hbs, ← hsplit, checksum_frame] at htaken
  have hbytes : ((s.waiting bs).taken b).rxBytes = frame s.addr s.pendCmd p := by
    rw [State.rxBytes, htaken, toNat_ofNat_byte (by omega), ← hflen, Memory.readAll_writeAll_same]
  refine ⟨code, ?_⟩
  rw [hsplit, rxFrameWith_of_fresh_eq_complete P b hpend hfresh (by rw [hrsplen, toNat_ofNat_byte (by omega), hbs]),
    ← hsplit, complete_of_frameError_none P (by rw [hbytes, htaken]; exact hchecks), hbytes, hpayload, htaken]
  rfl

/-! ### The four commands -/

/-- Settles O32, by the decoder of BOOT_ENTER. -/
theorem bootEnterFrameCompletes : Obligations.BootEnterFrameCompletes := by
  intro s magic h
  obtain ⟨code, hfeed⟩ := rxFrameWith_of_fresh Config.hardware (p := le32 magic) (by simp) h
  obtain ⟨-, hcmd, -⟩ := h
  have hecho : u32le (le32 magic) 0 = magic := u32le_le32_append magic []
  refine ⟨_, storesFrameAndReply_frameMemory s _ _, ?_⟩
  refine (hfeed.trans (decodeResponse_bootEnter Config.hardware _ hcmd)).trans ?_
  rw [hecho]
  rfl

/-- Settles O33, by the decoder of READ_CHUNK. -/
theorem readChunkFrameCompletes : Obligations.ReadChunkFrameCompletes := by
  intro s echo d hd h
  have hlen : (le32 echo ++ d).length = 132 := by rw [List.length_append, le32_length, hd]
  obtain ⟨code, hfeed⟩ := rxFrameWith_of_fresh Config.hardware hlen.le (by rw [hlen]; exact h)
  obtain ⟨-, hcmd, -⟩ := h
  refine ⟨_, storesFrameAndReply_frameMemory s _ _, ?_⟩
  refine (hfeed.trans (decodeResponse_readChunk Config.hardware _ hcmd)).trans ?_
  rw [u32le_le32_append, hlen]
  rfl

/-- Settles O34, by the decoder of BOOT_EXIT. -/
theorem bootExitFrameCompletes : Obligations.BootExitFrameCompletes := by
  intro s h
  obtain ⟨code, hfeed⟩ := rxFrameWith_of_fresh Config.hardware (p := []) (by simp) h
  obtain ⟨-, hcmd, -⟩ := h
  exact ⟨_, storesFrameAndReply_frameMemory s _ _, hfeed.trans (decodeResponse_bootExit Config.hardware _ hcmd)⟩

/-- Settles O35, by the decoder of WRITE_CHUNK. -/
theorem writeChunkFrameCompletes : Obligations.WriteChunkFrameCompletes := by
  intro s echo status h
  obtain ⟨code, hfeed⟩ := rxFrameWith_of_fresh Config.hardware (p := le32 echo ++ le32 status) (by simp) h
  obtain ⟨-, hcmd, -⟩ := h
  have hstatus : u32le (le32 echo ++ le32 status) 4 = status := u32le_le32_append_four echo status []
  refine ⟨_, writeAccepted Config.hardware status, storesFrameAndReply_frameMemory s _ _, writeAccepted_iff _ _, ?_⟩
  refine (hfeed.trans (decodeResponse_writeChunk Config.hardware _ hcmd)).trans ?_
  rw [u32le_le32_append, hstatus]
  rfl

/-! ### The checksum, byte by byte -/

/-- CRC_BYTE of each byte folds the sequence into the register and leaves the block idle. -/
theorem execAll_crcByte_crc {bs : List Byte} {s t : State} (hidle : s.pendValid = false)
    (h : execAll (bs.map .crcByte) s = .next t) : t.crc = bs.foldl crcStep s.crc := by
  induction bs generalizing s with
  | nil =>
    cases h
    rfl
  | cons b bs ih =>
    rw [List.map_cons, execAll, exec_crcByte, whenIdle_idle _ hidle, raise, andThen_of_next] at h
    exact ih (s := State.finish .ok { s with crc := crcStep s.crc b }) hidle h

/-- Settles O59: CRC_INIT gives the start value, from which the bytes fold to their checksum. -/
theorem crcSequenceEqualsBlock : Obligations.CrcSequenceEqualsBlock := by
  intro bs s t u hidle ht hu
  rw [execAll, exec_crcInit, whenIdle_idle _ hidle, raise, andThen_of_next] at ht
  rw [exec_crcBlock, whenIdle_idle _ hidle] at hu
  have hsequence : t.crc = checksum bs :=
    execAll_crcByte_crc (s := State.finish .ok { s with crc := 0xFFFF#16 }) hidle ht
  cases hu
  exact ⟨hsequence, hsequence⟩

end Sys2Proof.Machine
end

section
/-! PROOFS. The step (20_memory.md section 4), one lemma for each kind of host action (a reset's and an admitted read's
stand above), and the STATUS word field by field (10_state.md R23, R32). -/

namespace Sys2Proof.Machine

/-! ### The oldest action -/

/-- With nothing asked the block waits (R207, R250). -/
theorem step_of_empty {s : State} (h : s.inbox = []) : step s = .next s := by
  simp only [step, h, idle]

section
variable {s : State} {rest : List HostAction}

theorem step_transfer {t : Transfer} (h : s.inbox = .transfer t :: rest) :
    step s = runTransfer t { s with inbox := rest } := by
  simp only [step, h]

theorem step_memWrite {addr n v : Nat} (h : s.inbox = .memWrite addr n v :: rest) :
    step s = .fault (.writeRefused addr n) := by
  simp only [step, h, hostWrite]

theorem step_memRead_error {addr n : Nat} {e : Fault} (h : s.inbox = .memRead addr n :: rest)
    (he : memRead s addr n = .error e) : step s = .fault e := by
  simp only [step, h, hostRead, memRead_inbox_events s rest s.events, he]

end

/-- Settles O41: a transfer is the oldest action, and `runTransfer` decodes it. -/
theorem stepRunsDecodedInstruction : Obligations.StepRunsDecodedInstruction := by
  refine ⟨fun s t rest i hs hd => ?decoded, fun s m rest e hs he => ?malformed, fun s t rest => step_transfer,
    fun s => step_of_empty⟩
  case decoded => rw [step_transfer hs, runTransfer_of_decode hd]
  case malformed => rw [step_transfer hs, runTransfer_message_error _ he]

/-- Settles O45: a write and a refused read are the two host actions whose step is a fault. -/
theorem refusedAccessesAreModelFaults : Obligations.RefusedAccessesAreModelFaults :=
  ⟨fun _ _ _ _ _ => step_memWrite, fun _ _ _ _ _ => step_memRead_error⟩

/-! ### The STATUS word -/

/-- The word bit by bit: the code's number below, a field in each of the bits 4 to 8, zeros above. -/
theorem State.status_getLsbD (s : State) (i : Nat) :
    s.status.getLsbD i =
      if i < 4 then s.code.number.getLsbD i
      else (i == 4 && s.pendValid) || (i == 5 && s.addrValid) || (i == 6 && s.rspValid) || (i == 7 && s.writeOk)
        || (i == 8 && s.echoMatch) := by
  have hbit (b : Bool) (j : Nat) : (BitVec.ofBool b).getLsbD j = (j == 0 && b) := by
    cases j with
    | zero => simp
    | succ j => simp
  simp only [State.status, State.statusPend, BitVec.getLsbD_append, hbit, BitVec.getLsbD_zero]
  split_ifs <;> grind

/-- Settles O46: each field stands at its bits. -/
theorem statusWordFields : Obligations.StatusWordFields := by
  refine ⟨by decide, fun s => ⟨?code, ?pend, s.status_getLsbD_five, ?rspValid, ?writeOk, ?echoMatch, ?reserved⟩⟩
  case code =>
    refine BitVec.eq_of_getLsbD_eq fun i hi => ?_
    simp only [BitVec.getLsbD_extractLsb', Nat.zero_add, State.status_getLsbD, hi, decide_true, Bool.true_and, if_true]
  case pend | rspValid | writeOk | echoMatch => exact (s.status_getLsbD _).trans (by simp)
  case reserved =>
    refine BitVec.eq_of_getLsbD_eq fun i hi => ?_
    have habove : ∀ j, 4 ≤ j → j < 9 → (9 + i == j) = false := fun j _ hj => beq_false_of_ne (by omega)
    rw [BitVec.getLsbD_extractLsb', State.status_getLsbD, if_neg (by omega)]
    simp [habove]

end Sys2Proof.Machine
end

section
/-! PROOFS. What each operation can do to the block, said once (`Update`), and what follows for every instruction: one
answer (R200, R205), and which instructions write ADDR, PEND, TXBUF and the response words (R22, R24, R25, R28, R29). -/

namespace Sys2Proof.Machine

/-! ### The updates -/

/-- Everything an operation of the port can make of a state before its result code is written, with what it found the
state to be. -/
inductive Update (s : State) : Instr → State → Prop
  /-- Nothing: the operation raises before any write (R140, R243 to R245). -/
  | refused (i : Instr) : Update s i s
  | crcInit (hidle : s.pendValid = false) : Update s .crcInit { s with crc := Config.crcInit }
  | crcByte (b : Byte) (hidle : s.pendValid = false) : Update s (.crcByte b) { s with crc := crcStep s.crc b }
  | crcBlock (bs : List Byte) (hidle : s.pendValid = false) : Update s (.crcBlock bs) { s with crc := checksum bs }
  | setAddr (a : Byte) (hidle : s.pendValid = false) (hrange : addrInRange a = true) :
      Update s (.setAddr a) { s with addr := a }
  | abort (hpend : s.pendValid = true) : Update s .abort { s with pendValid := false }
  | frameEncode (a c : Byte) (p : List Byte) (hidle : s.pendValid = false) (hlen : p.length ≤ 132) :
      Update s (.frameEncode a c p) { s.loadTx (frame a c p) with crc := checksum (a :: c :: p) }
  /-- A frame that FRAME_DECODE rejects, by its length (CRC as before) or by a frame check. -/
  | frameRejected (ea ec : Byte) (f : List Byte) (crc : Word16) (hidle : s.pendValid = false) :
      Update s (.frameDecode ea ec f) { s.clearOutputs with crc := crc }
  | frameDelivered (ea ec : Byte) (f p : List Byte) (hidle : s.pendValid = false) (hlen : p.length ≤ 132) :
      Update s (.frameDecode ea ec f) { s.clearOutputs.loadOut p with crc := 0x0000#16, rspValid := true }
  | issued {i : Instr} (hreq : isRequest i = true) {cmd rsplen : Byte} {p : List Byte} {faddr : Word32}
      (hidle : s.pendValid = false) (haddr : s.addr ≠ 0x00#8) (hshape : pendShape cmd rsplen faddr = true)
      (hlen : i.wellFormed = true → p.length ≤ 132) :
      Update s i { (s.loadTx (frame s.addr cmd p)).clearOutputs with
        crc := checksum (s.addr :: cmd :: p)
        pendValid := true
        pendCmd := cmd
        pendRsplen := rsplen
        pendFaddr := faddr
        rxlen := 0#8 }
  | taken (b : Byte) (hpend : s.pendValid = true) (hroom : (s.rxlen + 1#8).toNat < s.pendRsplen.toNat) :
      Update s (.rxByte b) (s.taken b)
  /-- The last awaited byte of a response that fails a frame check. -/
  | failed (b : Byte) (hpend : s.pendValid = true) (hlast : ¬ (s.rxlen + 1#8).toNat < s.pendRsplen.toNat) :
      Update s (.rxByte b) { s.taken b with pendValid := false }
  /-- The last awaited byte of a response that passes them: the payload is delivered and the command's decoder writes
  the response words and flags that are its own. -/
  | decoded (b : Byte) (hpend : s.pendValid = true) (hlast : ¬ (s.rxlen + 1#8).toNat < s.pendRsplen.toNat)
      (hchecks : frameError (s.taken b).rxBytes s.addr s.pendCmd (s.taken b).crc = none)
      {echo status : Word32} {echoMatch writeOk : Bool}
      (hecho : s.pendCmd = Config.opcBootExit → echo = s.rspEcho)
      (hstatus : s.pendCmd ≠ Config.opcWriteChunk → status = s.rspStatus)
      (hmatch : echoMatch = s.echoMatch ∨ echoMatch = (echo == s.pendFaddr))
      (hwrite : writeOk = s.writeOk ∨ writeOk = writeAccepted Config.hardware status) :
      Update s (.rxByte b) { (s.taken b).delivered (payloadOf (s.taken b).rxBytes) with
        rspEcho := echo
        rspStatus := status
        echoMatch := echoMatch
        writeOk := writeOk }

/-! ### Every operation is one of the updates -/

/-- An operation that needs the block idle is refused, or goes on from an idle state. -/
theorem update_of_whenIdle {i : Instr} {go : Result} {s t : State} (h : whenIdle s go = .next t)
    (hgo : s.pendValid = false → go = .next t → ∃ u c, t = u.finish c ∧ Update s i u) :
    ∃ u c, t = u.finish c ∧ Update s i u := by
  rcases whenIdle_next h with ⟨-, rfl⟩ | ⟨hidle, hnext⟩
  · exact ⟨_, _, rfl, .refused i⟩
  · exact hgo hidle hnext

theorem update_setAddr {a : Byte} {s t : State} (hidle : s.pendValid = false) (h : exec (.setAddr a) s = .next t) :
    ∃ u c, t = u.finish c ∧ Update s (.setAddr a) u := by
  cases ha : addrInRange a with
  | false =>
    cases (exec_setAddr_outOfRange hidle ha).symm.trans h
    exact ⟨_, _, rfl, .refused _⟩
  | true =>
    cases (exec_setAddr_inRange hidle ha).symm.trans h
    exact ⟨_, _, rfl, .setAddr a hidle ha⟩

theorem update_frameEncode {a c : Byte} {p : List Byte} {s t : State} (hidle : s.pendValid = false)
    (h : exec (.frameEncode a c p) s = .next t) : ∃ u c', t = u.finish c' ∧ Update s (.frameEncode a c p) u := by
  cases ha : addrInRange a with
  | false =>
    cases (exec_frameEncode_addressOutOfRange c hidle p ha).symm.trans h
    exact ⟨_, _, rfl, .refused _⟩
  | true =>
    rcases Nat.lt_or_ge 132 p.length with hp | hp
    · cases (exec_frameEncode_tooLong c hidle ha hp).symm.trans h
      exact ⟨_, _, rfl, .refused _⟩
    · cases (exec_frameEncode_ok c hidle ha hp).symm.trans h
      exact ⟨_, _, rfl, .frameEncode a c p hidle hp⟩

theorem update_frameDecode {ea ec : Byte} {f : List Byte} {s t : State} (hidle : s.pendValid = false)
    (h : exec (.frameDecode ea ec f) s = .next t) : ∃ u c, t = u.finish c ∧ Update s (.frameDecode ea ec f) u := by
  rcases Nat.lt_or_ge f.length 4 with hshort | hlow
  · cases (exec_frameDecode_tooShort hidle hshort).symm.trans h
    exact ⟨_, _, rfl, .frameRejected ea ec f s.crc hidle⟩
  rcases Nat.lt_or_ge 136 f.length with hlong | hhigh
  · cases (exec_frameDecode_tooLong hidle hlong).symm.trans h
    exact ⟨_, _, rfl, .frameRejected ea ec f s.crc hidle⟩
  cases hchecks : unframe f ea ec with
  | error e =>
    cases (exec_frameDecode_error hidle hlow hhigh hchecks).symm.trans h
    exact ⟨_, _, rfl, .frameRejected ea ec f (checksum f) hidle⟩
  | ok p =>
    obtain ⟨-, -, -, hp⟩ := unframe_ok hchecks
    cases (exec_frameDecode_ok hidle hlow hhigh hchecks).symm.trans h
    exact ⟨_, _, rfl, .frameDelivered ea ec f p hidle (by rw [hp, payloadOf_length]; omega)⟩

/-- The descriptor and the payload of each request (R142 to R145). -/
theorem exec_request {i : Instr} (h : isRequest i = true) :
    ∃ cmd p rsplen faddr, (∀ s, exec i s = request cmd p rsplen faddr s) ∧ pendShape cmd rsplen faddr = true
      ∧ (i.wellFormed = true → p.length ≤ 132) := by
  cases i with
  | reqBootEnter => exact ⟨_, _, _, _, fun _ => rfl, rfl, fun _ => by rw [le32_length]; decide⟩
  | reqReadChunk fa => exact ⟨_, _, _, _, fun _ => rfl, rfl, fun _ => by rw [le32_length]; decide⟩
  | reqBootExit => exact ⟨_, _, _, _, fun _ => rfl, rfl, fun _ => Nat.zero_le _⟩
  | reqWriteChunk fa d =>
    refine ⟨_, _, _, _, fun _ => rfl, rfl, fun hwf => ?_⟩
    have hd : d.length = 128 := of_decide_eq_true hwf
    rw [List.length_append, le32_length, hd]
  | _ => cases h

theorem update_request {i : Instr} {s t : State} (hreq : isRequest i = true) (h : exec i s = .next t) :
    ∃ u c, t = u.finish c ∧ Update s i u := by
  obtain ⟨cmd, p, rsplen, faddr, hexec, hshape, hlen⟩ := exec_request hreq
  rcases request_next ((hexec s).symm.trans h) with ⟨-, rfl⟩ | ⟨-, -, rfl⟩ | ⟨hidle, haddr, hissue⟩
  · exact ⟨_, _, rfl, .refused _⟩
  · exact ⟨_, _, rfl, .refused _⟩
  · cases hissue
    exact ⟨_, _, rfl, .issued hreq hidle haddr hshape hlen⟩

theorem update_abort {s t : State} (h : exec .abort s = .next t) : ∃ u c, t = u.finish c ∧ Update s .abort u := by
  cases hpend : s.pendValid with
  | false =>
    cases (exec_abort_idle hpend).symm.trans h
    exact ⟨_, _, rfl, .refused _⟩
  | true =>
    cases (exec_abort_pending hpend).symm.trans h
    exact ⟨_, _, rfl, .abort hpend⟩

theorem update_rxByte {b : Byte} {s t : State} (h : exec (.rxByte b) s = .next t) :
    ∃ u c, t = u.finish c ∧ Update s (.rxByte b) u := by
  rcases rxByteWith_next h with ⟨-, rfl⟩ | ⟨hpend, hroom, rfl⟩ | ⟨hpend, hlast, hcomplete⟩
  · exact ⟨_, _, rfl, .refused _⟩
  · exact ⟨_, _, rfl, .taken b hpend hroom⟩
  rcases complete_next hcomplete with ⟨e, -, rfl⟩ | ⟨hchecks, hdecode⟩
  · exact ⟨_, _, rfl, .failed b hpend hlast⟩
  rcases decodeResponse_next hdecode with ⟨hcmd, c, -, rfl⟩ | ⟨hcmd, rfl⟩ | ⟨hcmd, rfl⟩ | ⟨hcmd, c, -, rfl⟩
  · refine ⟨_, _, rfl, .decoded b hpend hlast hchecks (fun hexit => ?_) (fun _ => rfl) (.inl rfl) (.inl rfl)⟩
    exact absurd (hcmd.symm.trans hexit) (by decide)
  · refine ⟨_, _, rfl, .decoded b hpend hlast hchecks (fun hexit => ?_) (fun _ => rfl) (.inr rfl) (.inl rfl)⟩
    exact absurd (hcmd.symm.trans hexit) (by decide)
  · exact ⟨_, _, rfl, .decoded b hpend hlast hchecks (fun _ => rfl) (fun _ => rfl) (.inl rfl) (.inl rfl)⟩
  · refine ⟨_, _, rfl, .decoded b hpend hlast hchecks (fun hexit => ?_) (fun hne => ?_) (.inr rfl) (.inr rfl)⟩
    · exact absurd (hcmd.symm.trans hexit) (by decide)
    · exact absurd hcmd hne

/-- An operation that gives a next state makes one of the updates and then writes its code (R200). -/
theorem exec_update {i : Instr} {s t : State} (hop : isOperation i = true) (h : exec i s = .next t) :
    ∃ u c, t = u.finish c ∧ Update s i u := by
  cases i with
  | crcInit =>
    refine update_of_whenIdle h fun hidle hgo => ?_
    cases hgo
    exact ⟨_, _, rfl, .crcInit hidle⟩
  | crcByte b =>
    refine update_of_whenIdle h fun hidle hgo => ?_
    cases hgo
    exact ⟨_, _, rfl, .crcByte b hidle⟩
  | crcBlock bs =>
    refine update_of_whenIdle h fun hidle hgo => ?_
    cases hgo
    exact ⟨_, _, rfl, .crcBlock bs hidle⟩
  | setAddr a => exact update_of_whenIdle h fun hidle _ => update_setAddr hidle h
  | abort => exact update_abort h
  | frameEncode a c p => exact update_of_whenIdle h fun hidle _ => update_frameEncode hidle h
  | frameDecode ea ec f => exact update_of_whenIdle h fun hidle _ => update_frameDecode hidle h
  | reqBootEnter | reqReadChunk | reqBootExit | reqWriteChunk => exact update_request rfl h
  | rxByte b => exact update_rxByte h
  | bootEnterRequest | bootEnterResponse | readChunkRequest | readChunkResponse | bootExitRequest | bootExitResponse
  | writeChunkRequest | writeChunkResponse => cases hop

/-! ### The wire rows -/

/-- The rows of R82 are the four frames that are sent and the four that are fed (logs 6 and 7). -/
theorem encode_of_wire_row {i : Instr} (h : isOperation i = false) :
    (isReception i = false ∧ ∃ f, encode i = .lineOut f) ∨ (isReception i = true ∧ ∃ f, encode i = .lineIn f) := by
  cases i with
  | bootEnterRequest | readChunkRequest | bootExitRequest | writeChunkRequest => exact .inl ⟨rfl, _, rfl⟩
  | bootEnterResponse | readChunkResponse | bootExitResponse | writeChunkResponse => exact .inr ⟨rfl, _, rfl⟩
  | _ => cases h

/-- RX_BYTE and the response rows are fed frames. -/
theorem exec_of_isReception {i : Instr} (h : isReception i = true) :
    ∃ f, ∀ s, exec i s = rxFrameWith Config.hardware f s := by
  cases i with
  | rxByte b => exact ⟨[b], fun s => (andThen_skip (exec (.rxByte b) s)).symm⟩
  | bootEnterResponse | readChunkResponse | bootExitResponse | writeChunkResponse =>
    exact ⟨_, exec_of_encode_lineIn rfl⟩
  | _ => cases h

/-- What holds of a state holds after an instruction, if the history does not matter for it and the updates of that
instruction, or of RX_BYTE when it receives bytes, keep it. -/
theorem exec_keeps {Q : State → Prop} {i : Instr} {s t : State} (hrecord : ∀ u e, Q u → Q (u.record e))
    (hupdate : ∀ j u v c, j = i ∨ (isReception i = true ∧ ∃ b, j = .rxByte b) → Update u j v → Q u → Q (v.finish c))
    (hs : Q s) (h : exec i s = .next t) : Q t := by
  cases hop : isOperation i with
  | true =>
    obtain ⟨u, c, rfl, hu⟩ := exec_update hop h
    exact hupdate i s u c (.inl rfl) hu hs
  | false =>
    rcases encode_of_wire_row hop with ⟨-, f, hf⟩ | ⟨hrx, f, hf⟩
    · cases (exec_of_encode_lineOut hf s).symm.trans h
      exact hrecord s _ hs
    · refine rxFrameWith_keeps (fun b u v hu hv => ?_) hs ((exec_of_encode_lineIn hf s).symm.trans h)
      obtain ⟨w, c, rfl, hw⟩ := update_rxByte hv
      exact hupdate _ u w c (.inr ⟨hrx, b, rfl⟩) hw hu

/-! ### One answer for each operation -/

/-- The updates touch neither the history nor the host's list. -/
theorem Update.host_kept {s u : State} {i : Instr} (h : Update s i u) : u.events = s.events ∧ u.inbox = s.inbox := by
  cases h <;> exact ⟨rfl, rfl⟩

/-- Settles O53: an operation is one update, then `finish`. -/
theorem everyOperationAnswersOnce : Obligations.EveryOperationAnswersOnce := by
  intro i s t hop h
  obtain ⟨u, c, rfl, hu⟩ := exec_update hop h
  obtain ⟨hevents, hinbox⟩ := hu.host_kept
  exact ⟨congrArg (Event.result c :: ·) hevents, hinbox⟩

/-! ### Who writes what -/

theorem Update.addr_kept {s u : State} {i : Instr} (h : Update s i u) (hi : ∀ a, i ≠ .setAddr a) : u.addr = s.addr := by
  cases h with
  | setAddr a => exact absurd rfl (hi a)
  | _ => rfl

/-- Settles O55: of the updates only SET_ADDR's writes ADDR. -/
theorem onlySetAddrWritesAddr : Obligations.OnlySetAddrWritesAddr := by
  intro i s t h hi
  refine exec_keeps (Q := fun u => u.addr = s.addr) (fun _ _ hu => hu) (fun j u v c hj hv hu => ?_) rfl h
  have hne : ∀ a, j ≠ .setAddr a := by
    rcases hj with rfl | ⟨-, b, rfl⟩
    · exact hi
    · exact fun a => nofun
  exact (hv.addr_kept hne).trans hu

/-- The parts of the descriptor that only a request writes: PEND.cmd, PEND.rsplen, PEND.faddr (R24). -/
def State.descriptor (s : State) : Byte × Byte × Word32 := (s.pendCmd, s.pendRsplen, s.pendFaddr)

theorem Update.descriptor_kept {s u : State} {i : Instr} (h : Update s i u) (hi : isRequest i = false) :
    (u.pendValid = true → s.pendValid = true) ∧ u.descriptor = s.descriptor := by
  cases h with
  | issued hreq => exact absurd (hi.symm.trans hreq) Bool.false_ne_true
  | abort | failed | decoded => exact ⟨nofun, rfl⟩
  | _ => exact ⟨id, rfl⟩

/-- Settles O56: of the updates only a request's opens an exchange or writes the descriptor. -/
theorem onlyRequestsOpenExchanges : Obligations.OnlyRequestsOpenExchanges := by
  intro i s t h hi
  have hkept : (t.pendValid = true → s.pendValid = true) ∧ t.descriptor = s.descriptor := by
    refine exec_keeps (Q := fun u => (u.pendValid = true → s.pendValid = true) ∧ u.descriptor = s.descriptor)
      (fun _ _ hu => hu) (fun j u v c hj hv hu => ?_) ⟨id, rfl⟩ h
    have hj : isRequest j = false := by
      rcases hj with rfl | ⟨-, b, rfl⟩
      · exact hi
      · rfl
    obtain ⟨hopen, hdesc⟩ := hv.descriptor_kept hj
    exact ⟨hu.1 ∘ hopen, hdesc.trans hu.2⟩
  obtain ⟨hopen, hdesc⟩ := hkept
  simp only [State.descriptor, Prod.mk.injEq] at hdesc
  exact ⟨hopen, hdesc⟩

theorem Update.txbuf_kept {s u : State} {i : Instr} (h : Update s i u) (hreq : isRequest i = false)
    (henc : ∀ a c p, i ≠ .frameEncode a c p) :
    u.txlen = s.txlen ∧ ∀ a, a < rxBase → Memory.read u.mem a = Memory.read s.mem a := by
  have hrx (b : Byte) (a : Nat) (ha : a < rxBase) : Memory.read (s.taken b).mem a = Memory.read s.mem a :=
    Memory.read_write_other _ _ _ _ (by omega)
  have hout (m : Memory) (p : List Byte) (a : Nat) (ha : a < rxBase) :
      Memory.read (Memory.writeAll m outBase p) a = Memory.read m a :=
    Memory.read_writeAll_outside _ _ _ _ (.inl (lt_trans ha (by decide)))
  cases h with
  | issued hissued => exact absurd (hreq.symm.trans hissued) Bool.false_ne_true
  | frameEncode a c p => exact absurd rfl (henc a c p)
  | frameDelivered ea ec f p => exact ⟨rfl, hout _ p⟩
  | taken b | failed b => exact ⟨rfl, hrx b⟩
  | decoded b => exact ⟨rfl, fun a ha => (hout _ _ a ha).trans (hrx b a ha)⟩
  | _ => exact ⟨rfl, fun _ _ => rfl⟩

/-- Settles O57: of the updates only FRAME_ENCODE's and a request's write below RXBUF or TXLEN. -/
theorem onlyEncodersWriteTxbuf : Obligations.OnlyEncodersWriteTxbuf := by
  intro i s t h hreq henc
  refine exec_keeps (Q := fun u => u.txlen = s.txlen ∧ ∀ a, a < rxBase → Memory.read u.mem a = Memory.read s.mem a)
    (fun _ _ hu => hu) (fun j u v c hj hv hu => ?_) ⟨rfl, fun _ _ => rfl⟩ h
  have hkept : v.txlen = u.txlen ∧ ∀ a, a < rxBase → Memory.read v.mem a = Memory.read u.mem a := by
    rcases hj with rfl | ⟨-, b, rfl⟩
    · exact hv.txbuf_kept hreq henc
    · exact hv.txbuf_kept rfl nofun
  exact ⟨hkept.1.trans hu.1, fun a ha => (hkept.2 a ha).trans (hu.2 a ha)⟩

/-! ### The response words -/

/-- RSP_ECHO and RSP_STATUS (R28, R29). -/
def State.responseWords (s : State) : Word32 × Word32 := (s.rspEcho, s.rspStatus)

theorem words_of_responseWords_eq {u v : State} (h : u.responseWords = v.responseWords) :
    u.rspEcho = v.rspEcho ∧ u.rspStatus = v.rspStatus :=
  Prod.mk.inj h

/-- Only a completion that passes the frame checks writes a response word. -/
theorem Update.responseWords_kept {s u : State} {i : Instr} (h : Update s i u) :
    u.responseWords = s.responseWords ∨
    ∃ b, i = .rxByte b ∧ s.pendValid = true ∧ ¬ (s.rxlen + 1#8).toNat < s.pendRsplen.toNat
      ∧ frameError (s.taken b).rxBytes s.addr s.pendCmd (s.taken b).crc = none
      ∧ u.rspValid = true ∧ u.pendValid = false
      ∧ (s.pendCmd = Config.opcBootExit → u.rspEcho = s.rspEcho)
      ∧ (s.pendCmd ≠ Config.opcWriteChunk → u.rspStatus = s.rspStatus) := by
  cases h with
  | decoded b hpend hlast hchecks hecho hstatus =>
    exact .inr ⟨b, rfl, hpend, hlast, hchecks, rfl, rfl, hecho, hstatus⟩
  | _ => exact .inl rfl

/-- A passed completion has written `t`'s response words where `s` had an exchange open: RSP_ECHO never for BOOT_EXIT,
RSP_STATUS only for WRITE_CHUNK. -/
def respondedTo (s t : State) : Prop :=
  s.pendValid = true ∧ t.rspValid = true
    ∧ (s.pendCmd = Config.opcBootExit → t.rspEcho = s.rspEcho)
    ∧ (s.pendCmd ≠ Config.opcWriteChunk → t.rspStatus = s.rspStatus)

/-- While bytes come in, the words are as before as long as the exchange stays open, and the bytes after it change
nothing. -/
theorem rxFrameWith_responseWords {f : List Byte} {s t : State} (h : rxFrameWith Config.hardware f s = .next t) :
    t.responseWords = s.responseWords ∨ respondedTo s t := by
  have hstages : (t.responseWords = s.responseWords ∧ t.pendCmd = s.pendCmd ∧ (t.pendValid = true → s.pendValid = true))
      ∨ (t.pendValid = false ∧ respondedTo s t) := by
    refine rxFrameWith_keeps
      (Q := fun u =>
        (u.responseWords = s.responseWords ∧ u.pendCmd = s.pendCmd ∧ (u.pendValid = true → s.pendValid = true))
        ∨ (u.pendValid = false ∧ respondedTo s u)) (fun b u v hu hv => ?_) (.inl ⟨rfl, rfl, id⟩) h
    rcases hu with ⟨hwords, hcmd, hopen⟩ | ⟨hended, hresponded⟩
    · obtain ⟨w, c, rfl, hw⟩ := update_rxByte hv
      obtain ⟨hopen', hdesc⟩ := hw.descriptor_kept rfl
      have hcmd' : w.pendCmd = u.pendCmd := congrArg Prod.fst hdesc
      rcases hw.responseWords_kept with hkept | ⟨-, -, hpend, -, -, hvalid, hclosed, hecho, hstatus⟩
      · exact .inl ⟨hkept.trans hwords, hcmd'.trans hcmd, hopen ∘ hopen'⟩
      · obtain ⟨huecho, hustatus⟩ := words_of_responseWords_eq hwords
        rw [hcmd] at hecho hstatus
        exact .inr ⟨hclosed, hopen hpend, hvalid, fun hexit => (hecho hexit).trans huecho,
          fun hne => (hstatus hne).trans hustatus⟩
    · cases (rxByteWith_idle Config.hardware b hended).symm.trans hv
      exact .inr ⟨hended, hresponded⟩
  exact hstages.imp And.left And.right

theorem exec_responseWords {i : Instr} {s t : State} (h : exec i s = .next t) :
    t.responseWords = s.responseWords ∨ (isReception i = true ∧ respondedTo s t) := by
  cases hrx : isReception i with
  | true =>
    obtain ⟨f, hfeed⟩ := exec_of_isReception hrx
    exact (rxFrameWith_responseWords ((hfeed s).symm.trans h)).imp_right fun hresponded => ⟨rfl, hresponded⟩
  | false =>
    refine .inl (exec_keeps (Q := fun u => u.responseWords = s.responseWords) (fun _ _ hu => hu)
      (fun j u v c hj hv hu => ?_) rfl h)
    rcases hj with rfl | ⟨hrx', -⟩
    · rcases hv.responseWords_kept with hkept | ⟨b, rfl, -⟩
      · exact hkept.trans hu
      · cases hrx
    · exact absurd (hrx.symm.trans hrx') Bool.false_ne_true

/-- Under the invariant, a byte that changes a response word is the last awaited one, of a frame that `unframe`
accepts. -/
theorem rxByte_changes_responseWords {b : Byte} {s t : State} (hinv : s.Inv) (h : exec (.rxByte b) s = .next t)
    (hne : t.responseWords ≠ s.responseWords) :
    s.pendValid = true ∧ s.rxlen.toNat + 1 = s.pendRsplen.toNat ∧ t.rspValid = true
      ∧ ∃ p, unframe (s.rxBytes ++ [b]) s.addr s.pendCmd = .ok p := by
  obtain ⟨u, c, rfl, hu⟩ := update_rxByte h
  rcases hu.responseWords_kept with hkept | ⟨b', hb, hpend, hlast, hchecks, hvalid, -⟩
  · exact absurd hkept hne
  · cases hb
    have hreceiving := hinv.pendReceiving hpend
    rw [rxlen_succ hreceiving] at hlast
    have hlen : s.rxlen.toNat + 1 = s.pendRsplen.toNat := by omega
    have hbytes := taken_rxBytes_of_last hlen b
    have hcrc : (s.taken b).crc = checksum (s.rxBytes ++ [b]) := hinv.rxCrc_eq hpend b
    rw [hbytes, hcrc] at hchecks
    obtain ⟨hea, hec, hzero⟩ := frameError_none.mp hchecks
    exact ⟨hpend, hlen, hvalid, _, unframe_eq_payloadOf (four_le_length_of_last hinv hpend hlen b) hea hec hzero⟩

/-- Settles O58: only a passed completion of an open exchange writes a response word. -/
theorem onlyCompletionWritesResponseWords : Obligations.OnlyCompletionWritesResponseWords := by
  intro i s t h
  refine ⟨fun hrx => ?notReceiving, fun hidle => ?idle, fun hexit => ?bootExit, fun hne => ?noWrite,
    fun hinvalid => ?notValid, ?byte⟩
  case byte =>
    rintro b rfl hinv hchanged
    refine rxByte_changes_responseWords hinv h fun hkept => ?_
    obtain ⟨hecho, hstatus⟩ := words_of_responseWords_eq hkept
    exact hchanged.elim (absurd hecho) (absurd hstatus)
  all_goals rcases exec_responseWords h with hkept | ⟨hreception, hpend, hvalid, hecho, hstatus⟩
  case notReceiving.inl | idle.inl | notValid.inl => exact words_of_responseWords_eq hkept
  case bootExit.inl => exact (words_of_responseWords_eq hkept).1
  case noWrite.inl => exact (words_of_responseWords_eq hkept).2
  case notReceiving.inr => exact absurd (hrx.symm.trans hreception) Bool.false_ne_true
  case idle.inr => exact absurd (hidle.symm.trans hpend) Bool.false_ne_true
  case bootExit.inr => exact hecho hexit
  case noWrite.inr => exact hstatus hne
  case notValid.inr => exact absurd (hinvalid.symm.trans hvalid) Bool.false_ne_true

end Sys2Proof.Machine
end

section
/-! PROOFS. The invariant (10_state.md section 2): it holds at reset, every update of an operation keeps it, so every
step does; and under it no instruction traps and only refused register accesses stop a run (R200, R206). -/

namespace Sys2Proof.Machine

/-- Settles O49: no exchange is open, the memory is empty and every length is 0. -/
theorem invariantAtReset : Obligations.InvariantAtReset := by
  constructor <;> decide

/-! ### What the invariant does not depend on -/

/-- The invariant says nothing of the code, the host's list and the history. -/
theorem State.Inv.of_block {s : State} (h : s.Inv) (code : Code) (inbox : List HostAction) (events : List Event) :
    State.Inv { s with code := code, inbox := inbox, events := events } :=
  { h with }

theorem State.Inv.finish {s : State} (h : s.Inv) (c : Code) : (s.finish c).Inv := h.of_block _ _ _

theorem State.Inv.record {s : State} (h : s.Inv) (e : Event) : (s.record e).Inv := h.of_block _ _ _

/-! ### Stores inside the buffers -/

/-- A memory in canonical form with nothing outside the buffers (R53). -/
structure Memory.Sound (m : Memory) : Prop where
  wf : Memory.wf m = true
  inside : ∀ c ∈ m, inBuffers c.1 = true

theorem State.Inv.mem_sound {s : State} (h : s.Inv) : Memory.Sound s.mem := ⟨h.memWf, h.memInBuffers⟩

theorem Memory.Sound.writeAll {m : Memory} {base : Nat} {bs : List Byte} (h : Memory.Sound m)
    (hbuf : ∀ a, base ≤ a → a < base + bs.length → inBuffers a = true) : Memory.Sound (Memory.writeAll m base bs) := by
  obtain ⟨hwf, hin⟩ := h
  refine ⟨Memory.wf_writeAll base bs hwf, fun c hc => ?_⟩
  rcases Memory.mem_writeAll hc with ⟨hlow, hhigh⟩ | hold
  · exact hbuf c.1 hlow hhigh
  · exact hin c hold

/-- A frame of at most 136 bytes fits TXBUF. -/
theorem Memory.Sound.loadTx {m : Memory} {f : List Byte} (h : Memory.Sound m) (hf : f.length ≤ 136) :
    Memory.Sound (Memory.writeAll m txBase f) :=
  h.writeAll fun a hlow hhigh => (inBuffers_iff a).mpr (by simp only [txBase] at hlow hhigh; omega)

/-- A payload of at most 132 bytes fits OUTBUF. -/
theorem Memory.Sound.loadOut {m : Memory} {p : List Byte} (h : Memory.Sound m) (hp : p.length ≤ 132) :
    Memory.Sound (Memory.writeAll m outBase p) :=
  h.writeAll fun a hlow hhigh => (inBuffers_iff a).mpr (by simp only [outBase] at hlow hhigh; omega)

/-- Any of the first 136 bytes fits RXBUF. -/
theorem Memory.Sound.appendRx {m : Memory} {n : Nat} (b : Byte) (h : Memory.Sound m) (hn : n < 136) :
    Memory.Sound (Memory.write m (rxBase + n) b) :=
  h.writeAll (bs := [b]) fun a hlow hhigh => (inBuffers_iff a).mpr (by
    simp only [rxBase, List.length_singleton] at hlow hhigh
    omega)

theorem validFrame_frame (a c : Byte) (p : List Byte) : validFrame (frame a c p) = true := by
  simp [validFrame, checksum_frame]

/-! ### The updates of an idle block -/

/-- What is asked of an open exchange is no question in an idle state. -/
theorem not_pending_of_idle {s : State} {q : Prop} (hidle : s.pendValid = false) (hpend : s.pendValid = true) : q :=
  absurd (hidle.symm.trans hpend) Bool.false_ne_true

section
variable {s : State} (h : s.Inv) (hidle : s.pendValid = false)
include h hidle

theorem State.Inv.set_crc (crc : Word16) : State.Inv { s with crc := crc } :=
  { h with pendCrc := not_pending_of_idle hidle }

theorem State.Inv.set_addr {a : Byte} (ha : addrInRange a = true) : State.Inv { s with addr := a } :=
  { h with
    addrLegal := .inr ha
    pendBound := not_pending_of_idle hidle
    pendTx := not_pending_of_idle hidle }

theorem State.Inv.loadTx {f : List Byte} (hf : f.length ≤ 136) : (s.loadTx f).Inv :=
  { h with
    memWf := (h.mem_sound.loadTx hf).wf
    memInBuffers := (h.mem_sound.loadTx hf).inside
    txlenBound := (toNat_ofNat_byte (by omega)).trans_le hf
    pendCrc := not_pending_of_idle hidle
    pendTx := not_pending_of_idle hidle }

theorem State.Inv.clearOutputs : s.clearOutputs.Inv :=
  { h with
    outlenBound := Nat.zero_le _
    outNeedsRspValid := fun hne => absurd rfl hne
    writeOkStatus := nofun
    echoMatchEcho := nofun
    pendCleared := not_pending_of_idle hidle }

theorem State.Inv.deliver {p : List Byte} (hp : p.length ≤ 132) :
    State.Inv { s.loadOut p with rspValid := true } :=
  { h with
    memWf := (h.mem_sound.loadOut hp).wf
    memInBuffers := (h.mem_sound.loadOut hp).inside
    outlenBound := (toNat_ofNat_byte (by omega)).trans_le hp
    outNeedsRspValid := fun _ => rfl
    writeOkStatus := fun hset => ⟨rfl, (h.writeOkStatus hset).2⟩
    echoMatchEcho := fun hset => ⟨rfl, (h.echoMatchEcho hset).2⟩
    pendCleared := not_pending_of_idle hidle
    pendCrc := not_pending_of_idle hidle
    pendTx := not_pending_of_idle hidle }

/-- A request with its frame in TXBUF opens an exchange that has received nothing (R141). -/
theorem State.Inv.issue {cmd rsplen : Byte} {p : List Byte} {faddr : Word32} (haddr : s.addr ≠ 0x00#8)
    (hshape : pendShape cmd rsplen faddr = true) (hp : p.length ≤ 132) :
    State.Inv { (s.loadTx (frame s.addr cmd p)).clearOutputs with
      crc := checksum (s.addr :: cmd :: p)
      pendValid := true
      pendCmd := cmd
      pendRsplen := rsplen
      pendFaddr := faddr
      rxlen := 0#8 } :=
  have hlen := frame_length s.addr cmd p
  have hcleared := (h.loadTx hidle (f := frame s.addr cmd p) (by omega)).clearOutputs hidle
  have htx := State.txFrame_loadTx s (f := frame s.addr cmd p) (by omega)
  { hcleared with
    rxlenBound := Nat.zero_le _
    echoMatchEcho := nofun
    pendShaped := fun _ => hshape
    pendBound := fun _ => haddr
    pendReceiving := fun _ => lt_of_lt_of_le (Nat.zero_lt_succ 3) (pendShape_bounds hshape).1
    pendCleared := fun _ => ⟨rfl, rfl⟩
    pendCrc := fun _ hne => absurd rfl hne
    pendTx := fun _ => by
      show validFrame (s.loadTx (frame s.addr cmd p)).txFrame = true
        ∧ byteAt (s.loadTx (frame s.addr cmd p)).txFrame 0 = s.addr
        ∧ byteAt (s.loadTx (frame s.addr cmd p)).txFrame 1 = cmd
      rw [htx]
      exact ⟨validFrame_frame s.addr cmd p, rfl, rfl⟩ }

end

/-! ### The updates of an open exchange -/

theorem State.Inv.abort {s : State} (h : s.Inv) : State.Inv { s with pendValid := false } :=
  { h with
    pendShaped := nofun
    pendBound := nofun
    pendReceiving := nofun
    pendCleared := nofun
    pendCrc := nofun
    pendTx := nofun }

/-- The request frame stands below RXBUF, so received bytes leave it alone. -/
theorem State.Inv.taken_txFrame {s : State} (h : s.Inv) (b : Byte) : (s.taken b).txFrame = s.txFrame := by
  have hmax := h.txlenBound
  simp only [Config.maxFrame, Config.maxPayload] at hmax
  exact Memory.readAll_write_other _ _ _ _ _ (by simp only [txBase, rxBase]; omega)

section
variable {s : State} (h : s.Inv) (hpend : s.pendValid = true)
include h hpend

theorem State.Inv.rxlen_lt : s.rxlen.toNat < 136 := by
  obtain ⟨-, hmax⟩ := pendShape_bounds (h.pendShaped hpend)
  exact lt_of_lt_of_le (h.pendReceiving hpend) hmax

theorem State.Inv.taken_mem_sound (b : Byte) : Memory.Sound (s.taken b).mem :=
  h.mem_sound.appendRx b (h.rxlen_lt hpend)

theorem State.Inv.taken_rxlen (b : Byte) : (s.taken b).rxlen.toNat = s.rxlen.toNat + 1 :=
  rxlen_succ (h.pendReceiving hpend)

/-- A byte that ends the exchange, before the frame is checked. -/
theorem State.Inv.taken_ended (b : Byte) : State.Inv { s.taken b with pendValid := false } :=
  have hrxlen := h.taken_rxlen hpend b
  have hlt := h.rxlen_lt hpend
  { h.abort with
    memWf := (h.taken_mem_sound hpend b).wf
    memInBuffers := (h.taken_mem_sound hpend b).inside
    rxlenBound := hrxlen.trans_le hlt
    pendReceiving := nofun
    pendCrc := nofun
    pendTx := nofun }

/-- A byte after which the exchange still waits (R150). -/
theorem State.Inv.taken (b : Byte) (hroom : (s.rxlen + 1#8).toNat < s.pendRsplen.toNat) : (s.taken b).Inv :=
  have hended := h.taken_ended hpend b
  { h with
    memWf := hended.memWf
    memInBuffers := hended.memInBuffers
    rxlenBound := hended.rxlenBound
    pendReceiving := fun _ => hroom
    pendCrc := fun _ _ => by
      rw [taken_rxBytes b (rxlen_succ (h.pendReceiving hpend))]
      exact h.rxCrc_eq hpend b
    pendTx := fun _ => by
      rw [h.taken_txFrame b]
      exact h.pendTx hpend }

/-- A passed completion: the payload goes to OUTBUF, and the flags say what R23 says of the words beside them. -/
theorem State.Inv.decoded (b : Byte) {echo status : Word32} {echoMatch writeOk : Bool}
    (hmatch : echoMatch = s.echoMatch ∨ echoMatch = (echo == s.pendFaddr))
    (hwrite : writeOk = s.writeOk ∨ writeOk = writeAccepted Config.hardware status) :
    State.Inv { (s.taken b).delivered (payloadOf (s.taken b).rxBytes) with
      rspEcho := echo
      rspStatus := status
      echoMatch := echoMatch
      writeOk := writeOk } :=
  have hlen : (payloadOf (s.taken b).rxBytes).length ≤ 132 := by
    have hlt := h.rxlen_lt hpend
    rw [payloadOf_length, rxBytes_length, h.taken_rxlen hpend b]
    omega
  { (h.taken_ended hpend b).deliver rfl hlen with
    writeOkStatus := fun hset => by
      rcases hwrite with hkept | haccepted
      · exact absurd (hset.symm.trans (hkept.trans (h.writeOk_of_pending hpend))) (by decide)
      · exact ⟨rfl, haccepted.symm.trans hset⟩
    echoMatchEcho := fun hset => by
      rcases hmatch with hkept | hequal
      · exact absurd (hset.symm.trans (hkept.trans (h.echoMatch_of_pending hpend))) (by decide)
      · exact ⟨rfl, beq_iff_eq.mp (hequal.symm.trans hset)⟩ }

end

/-! ### Every step keeps it -/

theorem Update.inv {i : Instr} {s u : State} (hu : Update s i u) (hwf : i.wellFormed = true) (h : s.Inv) : u.Inv := by
  cases hu with
  | refused => exact h
  | crcInit hidle | crcByte b hidle | crcBlock bs hidle => exact h.set_crc hidle _
  | setAddr a hidle hrange => exact h.set_addr hidle hrange
  | abort => exact h.abort
  | frameEncode a c p hidle hlen =>
    exact (h.loadTx hidle (by rw [frame_length]; omega)).set_crc hidle _
  | frameRejected ea ec f crc hidle => exact (h.clearOutputs hidle).set_crc hidle crc
  | frameDelivered ea ec f p hidle hlen => exact ((h.clearOutputs hidle).deliver hidle hlen).set_crc hidle _
  | issued _ hidle haddr hshape hlen => exact h.issue hidle haddr hshape (hlen hwf)
  | taken b hpend hroom => exact h.taken hpend b hroom
  | failed b hpend => exact h.taken_ended hpend b
  | decoded b hpend _ _ _ _ hmatch hwrite => exact h.decoded hpend b hmatch hwrite

theorem exec_inv {i : Instr} {s t : State} (h : s.Inv) (hwf : i.wellFormed = true) (hexec : exec i s = .next t) :
    t.Inv := by
  refine exec_keeps (fun u e hu => State.Inv.record hu e) (fun j u v c hj hv hu => ?_) h hexec
  have hj : j.wellFormed = true := by
    rcases hj with rfl | ⟨-, b, rfl⟩
    · exact hwf
    · rfl
  exact (hv.inv hj hu).finish c

theorem rxFrameWith_inv {f : List Byte} {s t : State} (h : s.Inv) (hfeed : rxFrameWith Config.hardware f s = .next t) :
    t.Inv :=
  rxFrameWith_keeps (fun b _ _ hu hv => exec_inv (i := .rxByte b) hu rfl hv) h hfeed

/-- A transfer keeps the invariant, be it an instruction or not: what decodes is well formed. -/
theorem runTransfer_inv {tr : Transfer} {s t : State} (h : s.Inv) (hrun : runTransfer tr s = .next t) : t.Inv := by
  cases tr with
  | message m =>
    cases hd : decode (.message m) with
    | ok i =>
      rw [runTransfer_of_decode hd] at hrun
      exact exec_inv h (encodeOfDecode _ i hd).1 hrun
    | error e =>
      cases (runTransfer_message_error s hd).symm.trans hrun
      exact h.finish .illegalOp
  | lineOut f =>
    cases (runTransfer_lineOut f s).symm.trans hrun
    exact h.record (.sent f)
  | lineIn f => exact rxFrameWith_inv h ((runTransfer_lineIn f s).symm.trans hrun)

/-- Settles O50, by the host's oldest action. -/
theorem stepKeepsInvariant : Obligations.StepKeepsInvariant := by
  intro s t h hstep
  have hrest (rest : List HostAction) : State.Inv { s with inbox := rest } := h.of_block s.code rest s.events
  cases hin : s.inbox with
  | nil =>
    cases (step_of_empty hin).symm.trans hstep
    exact h
  | cons action rest =>
    cases action with
    | transfer tr => exact runTransfer_inv (hrest rest) ((step_transfer hin).symm.trans hstep)
    | memRead addr n =>
      cases hread : memRead s addr n with
      | ok v =>
        cases (step_memRead hin hread).symm.trans hstep
        exact (hrest rest).record (.readValue addr n v)
      | error e => cases (step_memRead_error hin hread).symm.trans hstep
    | memWrite addr n v => cases (step_memWrite hin).symm.trans hstep
    | reset =>
      cases (step_reset hin).symm.trans hstep
      exact invariantAtReset.of_block _ _ _

/-! ### Nothing traps -/

/-- The four commands have a decoder each, so completion under the invariant answers (R151). -/
theorem exec_rxByte_answers {s : State} (h : s.Inv) (b : Byte) : ∃ t, exec (.rxByte b) s = .next t := by
  cases hpend : s.pendValid with
  | false => exact ⟨_, exec_rxByte_idle b s hpend⟩
  | true =>
    by_cases hroom : (s.rxlen + 1#8).toNat < s.pendRsplen.toNat
    · exact ⟨_, rxByteWith_waits Config.hardware b hpend hroom⟩
    · obtain ⟨t, ht, -⟩ :=
        complete_ends Config.hardware (s := s.taken b) (pendCmd_of_pendShape (h.pendShaped hpend))
      exact ⟨t, (rxByteWith_completes Config.hardware b hpend hroom).trans ht⟩

theorem rxFrameWith_answers {f : List Byte} {s : State} (h : s.Inv) :
    ∃ t, rxFrameWith Config.hardware f s = .next t := by
  induction f generalizing s with
  | nil => exact ⟨s, rfl⟩
  | cons b f ih =>
    obtain ⟨u, hu⟩ := exec_rxByte_answers h b
    obtain ⟨t, ht⟩ := ih (exec_inv h (i := .rxByte b) rfl hu)
    refine ⟨t, Eq.trans ?_ ht⟩
    exact congrArg (andThen · (rxFrameWith Config.hardware f)) hu

theorem exec_operation_answers {i : Instr} {s : State} (h : s.Inv) (hop : isOperation i = true) :
    ∃ t, exec i s = .next t := by
  cases hpend : s.pendValid with
  | false => exact exec_answers_of_isOperation hpend hop
  | true =>
    by_cases habort : i = .abort
    · exact ⟨_, habort ▸ exec_abort_pending hpend⟩
    by_cases hrx : ∃ b, i = .rxByte b
    · obtain ⟨b, rfl⟩ := hrx
      exact exec_rxByte_answers h b
    · exact ⟨_, refusedWhilePending_of_isOperation hop habort (fun b hb => hrx ⟨b, hb⟩) s hpend⟩

/-- No instruction traps under the invariant, its operands fitting an encoding or not. -/
theorem exec_answers {s : State} (h : s.Inv) (i : Instr) : ∃ t, exec i s = .next t := by
  cases hop : isOperation i with
  | true => exact exec_operation_answers h hop
  | false =>
    rcases encode_of_wire_row hop with ⟨-, f, hf⟩ | ⟨-, f, hf⟩
    · exact ⟨_, exec_of_encode_lineOut hf s⟩
    · obtain ⟨t, ht⟩ := rxFrameWith_answers h (f := f)
      exact ⟨t, (exec_of_encode_lineIn hf s).trans ht⟩

/-- Settles O51, for every instruction. -/
theorem noInstructionTraps : Obligations.NoInstructionTraps :=
  fun i _ h _ => exec_answers h i

theorem runTransfer_answers {s : State} (h : s.Inv) (tr : Transfer) : ∃ t, runTransfer tr s = .next t := by
  cases tr with
  | message m =>
    cases hd : decode (.message m) with
    | ok i =>
      rw [runTransfer_of_decode hd]
      exact exec_answers h i
    | error e => exact ⟨_, runTransfer_message_error s hd⟩
  | lineOut f => exact ⟨_, runTransfer_lineOut f s⟩
  | lineIn f =>
    obtain ⟨t, ht⟩ := rxFrameWith_answers h (f := f)
    exact ⟨t, (runTransfer_lineIn f s).trans ht⟩

/-- The two faults of a read (R55, R33). -/
theorem memRead_error {s : State} {addr n : Nat} {e : Fault} (h : memRead s addr n = .error e) :
    e = .readRefused addr n ∨ e = .unspecifiedByte addr := by
  obtain ⟨hanswers, hrefuses⟩ := onlyAdmittedReadsAnswer s addr n
  refine (hrefuses fun hadmitted => ?_).imp (fun hr => ?_) fun hr => ?_
  · obtain ⟨v, hv⟩ := hanswers hadmitted
    cases h.symm.trans hv
  · cases h.symm.trans hr
    rfl
  · cases h.symm.trans hr
    rfl

/-- The fault of a refused register access that is the oldest action (R54, R55). -/
def refusesAccess (s : State) (e : Fault) : Prop :=
  (∃ addr n rest, s.inbox = .memRead addr n :: rest ∧ (e = .readRefused addr n ∨ e = .unspecifiedByte addr))
  ∨ (∃ addr n v rest, s.inbox = .memWrite addr n v :: rest ∧ e = .writeRefused addr n)

theorem step_answers_or_refuses {s : State} (h : s.Inv) :
    (∃ t, step s = .next t) ∨ ∃ e, step s = .fault e ∧ refusesAccess s e := by
  cases hin : s.inbox with
  | nil => exact .inl ⟨s, step_of_empty hin⟩
  | cons action rest =>
    cases action with
    | transfer tr =>
      obtain ⟨t, ht⟩ := runTransfer_answers (h.of_block s.code rest s.events) tr
      exact .inl ⟨t, (step_transfer hin).trans ht⟩
    | memRead addr n =>
      cases hread : memRead s addr n with
      | ok v => exact .inl ⟨_, step_memRead hin hread⟩
      | error e => exact .inr ⟨e, step_memRead_error hin hread, .inl ⟨addr, n, rest, hin, memRead_error hread⟩⟩
    | memWrite addr n v => exact .inr ⟨_, step_memWrite hin, .inr ⟨addr, n, v, rest, hin, rfl⟩⟩
    | reset => exact .inl ⟨_, step_reset hin⟩

/-- Settles O52, by the host's oldest action: transfers and resets give a next state. -/
theorem onlyRegisterAccessesStop : Obligations.OnlyRegisterAccessesStop := by
  intro s h
  rcases step_answers_or_refuses h with ⟨t, ht⟩ | ⟨e, he, haccess⟩
  · rw [ht]
    exact ⟨nofun, nofun⟩
  · rw [he]
    refine ⟨nofun, fun e' he' => ?_⟩
    cases he'
    exact haccess

end Sys2Proof.Machine
end

section
/-! PROOFS. The assembler (30_encoding.md R78, R79): what each kind of operand fits, what each mnemonic builds of its
operands, and so what assembles and what is refused (logs 13 and 14). -/

namespace Sys2Proof.Machine

/-! ### Operands that fit, and operands that do not -/

theorem fitByte_toNat (b : Byte) : fitByte b.toNat = .ok b := by
  rw [fitByte, if_pos b.isLt, BitVec.ofNat_toNat, BitVec.setWidth_eq]

theorem fitByte_misfit {n : Nat} (h : ¬ n < 2 ^ 8) : fitByte n = .error .operandDoesNotFit := if_neg h

theorem fitWord_of_lt {n : Nat} (h : n < 2 ^ 32) : fitWord n = .ok (BitVec.ofNat 32 n) := if_pos h

theorem fitWord_toNat (w : Word32) : fitWord w.toNat = .ok w := by
  rw [fitWord_of_lt w.isLt, BitVec.ofNat_toNat, BitVec.setWidth_eq]

theorem fitWord_misfit {n : Nat} (h : 2 ^ 32 ≤ n) : fitWord n = .error .operandDoesNotFit := if_neg (Nat.not_lt.mpr h)

/-- A byte that does not fit is found before the length is looked at (log 14). -/
theorem fitBytes_misfit (most : Nat) {bs : List Nat} (h : ∃ n ∈ bs, ¬ n < 2 ^ 8) :
    fitBytes most bs = .error .operandDoesNotFit :=
  if_pos (by simpa using h)

theorem fitBytes_tooLong {most : Nat} {bs : List Nat} (hfit : ∀ n ∈ bs, n < 2 ^ 8) (hlen : most < bs.length) :
    fitBytes most bs = .error .byteStringLength :=
  (if_neg (by simpa using hfit)).trans (if_pos hlen)

theorem fitBytes_ok {most : Nat} {bs : List Nat} (hfit : ∀ n ∈ bs, n < 2 ^ 8) (hlen : bs.length ≤ most) :
    fitBytes most bs = .ok (bs.map (BitVec.ofNat 8)) :=
  (if_neg (by simpa using hfit)).trans (if_neg (Nat.not_lt.mpr hlen))

theorem lt_of_mem_map_toNat {bs : List Byte} : ∀ n ∈ bs.map BitVec.toNat, n < 2 ^ 8 := by
  intro n hn
  obtain ⟨b, -, rfl⟩ := List.mem_map.mp hn
  exact b.isLt

/-- Bytes written as numbers read back. -/
theorem fitBytes_map_toNat {most : Nat} {bs : List Byte} (hlen : bs.length ≤ most) :
    fitBytes most (bs.map BitVec.toNat) = .ok bs := by
  have hround : BitVec.ofNat 8 ∘ BitVec.toNat = (id : Byte → Byte) :=
    funext fun b => (BitVec.ofNat_toNat 8 b).trans (BitVec.setWidth_eq b)
  rw [fitBytes_ok lt_of_mem_map_toNat (by rwa [List.length_map]), List.map_map, hround, List.map_id]

theorem fitBytes_map_toNat_tooLong {most : Nat} {bs : List Byte} (hlen : most < bs.length) :
    fitBytes most (bs.map BitVec.toNat) = .error .byteStringLength :=
  fitBytes_tooLong lt_of_mem_map_toNat (by rwa [List.length_map])

theorem fitChunk_of_length {bs : List Nat} (h : bs.length = 128) : fitChunk bs = fitBytes 128 bs := if_pos h

/-- A chunk of a wrong length is found before its bytes are looked at (log 14). -/
theorem fitChunk_length {bs : List Nat} (h : bs.length ≠ 128) : fitChunk bs = .error .byteStringLength := if_neg h

theorem fitText_misfit {cs : List Char} (h : ∃ c ∈ cs, 128 ≤ c.toNat) : fitText cs = .error .operandDoesNotFit :=
  if_pos (by simpa using h)

theorem fitText_ascii {cs : List Char} (h : ∀ c ∈ cs, c.toNat < 128) :
    fitText cs = fitBytes 65535 (cs.map Char.toNat) :=
  if_neg (by simpa using h)

theorem lt_of_mem_map_ascii {cs : List Char} (h : ∀ c ∈ cs, c.toNat < 128) : ∀ n ∈ cs.map Char.toNat, n < 2 ^ 8 := by
  intro n hn
  obtain ⟨c, hc, rfl⟩ := List.mem_map.mp hn
  exact (h c hc).trans (by decide)

/-! ### What each mnemonic builds of its operands -/

theorem assembleOp_crcByte (b : Nat) :
    assembleOp "CRC_BYTE".toList [.number b] = (fitByte b).map fun b => [.crcByte b] := rfl

theorem assembleOp_setAddr (a : Nat) :
    assembleOp "SET_ADDR".toList [.number a] = (fitByte a).map fun a => [.setAddr a] := rfl

theorem assembleOp_rxByte (b : Nat) :
    assembleOp "RX_BYTE".toList [.number b] = (fitByte b).map fun b => [.rxByte b] := rfl

theorem assembleOp_crcBlock (bs : List Nat) :
    assembleOp "CRC_BLOCK".toList [.bytes bs] = (fitBytes 65535 bs).map fun s => [.crcBlock s] := rfl

theorem assembleOp_frameEncode (a c : Nat) (p : List Nat) :
    assembleOp "FRAME_ENCODE".toList [.number a, .number c, .bytes p]
      = (fitByte a).bind fun a => (fitByte c).bind fun c => (fitBytes 255 p).map fun p => [.frameEncode a c p] := rfl

theorem assembleOp_frameDecode (ea ec : Nat) (f : List Nat) :
    assembleOp "FRAME_DECODE".toList [.number ea, .number ec, .bytes f]
      = (fitByte ea).bind fun ea => (fitByte ec).bind fun ec => (fitBytes 255 f).map fun f => [.frameDecode ea ec f] :=
  rfl

theorem assembleOp_reqReadChunk (fa : Nat) :
    assembleOp "REQ_READ_CHUNK".toList [.number fa] = (fitWord fa).map fun fa => [.reqReadChunk fa] := rfl

theorem assembleOp_reqWriteChunk (fa : Nat) (d : List Nat) :
    assembleOp "REQ_WRITE_CHUNK".toList [.number fa, .bytes d]
      = (fitWord fa).bind fun fa => (fitChunk d).map fun d => [.reqWriteChunk fa d] := rfl

theorem assembleOp_rxFrame (f : List Nat) :
    assembleOp "RX_FRAME".toList [.bytes f] = (fitBytes f.length f).map fun f => f.map .rxByte := rfl

theorem assembleOp_crcSeq (bs : List Nat) :
    assembleOp "CRC_SEQ".toList [.bytes bs] = (fitBytes bs.length bs).map fun s => .crcInit :: s.map .crcByte := rfl

theorem assembleOp_crcAscii (cs : List Char) :
    assembleOp "CRC_ASCII".toList [.text cs] = (fitText cs).map fun s => [.crcBlock s] := rfl

/-- The operands of the two frame operations, whichever of them does not fit. -/
theorem fitFrameOperands_misfit {x y : Nat} {bs : List Nat} (build : Byte → Byte → List Byte → List Instr)
    (h : ¬ x < 2 ^ 8 ∨ ¬ y < 2 ^ 8 ∨ ∃ n ∈ bs, ¬ n < 2 ^ 8) :
    ((fitByte x).bind fun x => (fitByte y).bind fun y => (fitBytes 255 bs).map (build x y))
      = .error .operandDoesNotFit := by
  by_cases hx : x < 2 ^ 8
  · by_cases hy : y < 2 ^ 8
    · have hbs := (h.resolve_left (not_not.mpr hx)).resolve_left (not_not.mpr hy)
      rw [fitBytes_misfit 255 hbs, fitByte, if_pos hx, fitByte, if_pos hy]
      rfl
    · rw [fitByte_misfit hy, fitByte, if_pos hx]
      rfl
  · rw [fitByte_misfit hx]
    rfl

/-- Settles O60: each mnemonic fits its operands from left to right and builds from them. -/
theorem assemblerExpandsAndRejects : Obligations.AssemblerExpandsAndRejects := by
  refine ⟨rfl, rfl, rfl, rfl, fun b => ⟨?crcByte, ?setAddr, ?rxByte⟩, fun fa => ⟨?readChunk, fun d hd => ?writeChunk⟩,
    fun bs hlen => ?crcBlock, fun x y bs hlen => ⟨?frameEncode, ?frameDecode⟩,
    fun f => ?rxFrame, fun f => ?crcSeq, fun cs hascii hlen => ?crcAscii,
    fun n hn => ?byteMisfit, fun n hn => ⟨?readChunkMisfit, fun d => ?writeChunkMisfit⟩,
    fun x y bs hmisfit => ?frameMisfit, fun bs hmisfit => ?bytesMisfit,
    fun fa d hfa => ⟨fun hlen => ?chunkLength, fun hlen hmisfit => ?chunkMisfit⟩,
    fun x y bs hlen => ?frameLength, fun bs hlen => ?blockLength,
    fun cs hcs => ?asciiMisfit, fun cs hascii hlen => ?asciiLength⟩
  case crcByte =>
    rw [assembleOp_crcByte, fitByte_toNat]
    rfl
  case setAddr =>
    rw [assembleOp_setAddr, fitByte_toNat]
    rfl
  case rxByte =>
    rw [assembleOp_rxByte, fitByte_toNat]
    rfl
  case readChunk =>
    rw [assembleOp_reqReadChunk, fitWord_toNat]
    rfl
  case writeChunk =>
    rw [assembleOp_reqWriteChunk, fitWord_toNat, fitChunk_of_length (by rwa [List.length_map]),
      fitBytes_map_toNat hd.le]
    rfl
  case crcBlock =>
    rw [assembleOp_crcBlock, fitBytes_map_toNat hlen]
    rfl
  case frameEncode =>
    rw [assembleOp_frameEncode, fitByte_toNat, fitByte_toNat, fitBytes_map_toNat hlen]
    rfl
  case frameDecode =>
    rw [assembleOp_frameDecode, fitByte_toNat, fitByte_toNat, fitBytes_map_toNat hlen]
    rfl
  case rxFrame =>
    rw [assembleOp_rxFrame, fitBytes_map_toNat (by rw [List.length_map])]
    rfl
  case crcSeq =>
    rw [assembleOp_crcSeq, fitBytes_map_toNat (by rw [List.length_map])]
    rfl
  case crcAscii =>
    rw [assembleOp_crcAscii, fitText_ascii hascii, fitBytes_ok (lt_of_mem_map_ascii hascii) (by rwa [List.length_map]),
      List.map_map]
    rfl
  case byteMisfit =>
    simp only [List.mem_cons, List.not_mem_nil, or_false]
    rintro m (rfl | rfl | rfl)
    · rw [assembleOp_crcByte, fitByte_misfit hn]
      rfl
    · rw [assembleOp_setAddr, fitByte_misfit hn]
      rfl
    · rw [assembleOp_rxByte, fitByte_misfit hn]
      rfl
  case readChunkMisfit =>
    rw [assembleOp_reqReadChunk, fitWord_misfit hn]
    rfl
  case writeChunkMisfit =>
    rw [assembleOp_reqWriteChunk, fitWord_misfit hn]
    rfl
  case frameMisfit =>
    simp only [List.mem_cons, List.not_mem_nil, or_false]
    rintro m (rfl | rfl)
    · exact fitFrameOperands_misfit (fun a c p => [.frameEncode a c p]) hmisfit
    · exact fitFrameOperands_misfit (fun ea ec f => [.frameDecode ea ec f]) hmisfit
  case bytesMisfit =>
    simp only [List.mem_cons, List.not_mem_nil, or_false]
    rintro m (rfl | rfl | rfl)
    · rw [assembleOp_crcBlock, fitBytes_misfit _ hmisfit]
      rfl
    · rw [assembleOp_rxFrame, fitBytes_misfit _ hmisfit]
      rfl
    · rw [assembleOp_crcSeq, fitBytes_misfit _ hmisfit]
      rfl
  case chunkLength =>
    rw [assembleOp_reqWriteChunk, fitWord_of_lt hfa, fitChunk_length hlen]
    rfl
  case chunkMisfit =>
    rw [assembleOp_reqWriteChunk, fitWord_of_lt hfa, fitChunk_of_length hlen, fitBytes_misfit _ hmisfit]
    rfl
  case frameLength =>
    simp only [List.mem_cons, List.not_mem_nil, or_false]
    rintro m (rfl | rfl)
    · rw [assembleOp_frameEncode, fitByte_toNat, fitByte_toNat, fitBytes_map_toNat_tooLong hlen]
      rfl
    · rw [assembleOp_frameDecode, fitByte_toNat, fitByte_toNat, fitBytes_map_toNat_tooLong hlen]
      rfl
  case blockLength =>
    rw [assembleOp_crcBlock, fitBytes_map_toNat_tooLong hlen]
    rfl
  case asciiMisfit =>
    rw [assembleOp_crcAscii, fitText_misfit hcs]
    rfl
  case asciiLength =>
    rw [assembleOp_crcAscii, fitText_ascii hascii,
      fitBytes_tooLong (lt_of_mem_map_ascii hascii) (by rwa [List.length_map])]
    rfl

end Sys2Proof.Machine
end
